-- ==== Sys2Proof/Word.lean ====
section
/-! DEFINITION. The widths of the block's quantities (spec/00_scope.md section 6, spec/10_state.md R10). -/

namespace Sys2Proof

/-- `u1`: one line level or one bit to send; 0 is low, 1 is high (60_exceptions.md R151). -/
abbrev Bit := BitVec 1

/-- `u8`: the width of `VAL`, of a byte operand and of the response (10_state.md R12, 30_encoding.md R44). -/
abbrev Byte := BitVec 8

/-- `uW` with TIMER_WIDTH = 16: the counter, the compare target and an `ARM` operand (00_scope.md section 5, D5). -/
abbrev Ticks := BitVec 16

/-- `u3`: the width of `REM` (10_state.md R13). -/
abbrev RemCount := BitVec 3

/-- The 12-bit command word of format C (30_encoding.md R42). -/
abbrev CommandWord := BitVec 12

/-- The 18-bit word of the internal timer port, format T (30_encoding.md R47). -/
abbrev TimerWord := BitVec 18

/-- The 3-bit handler code of format X (30_encoding.md R48). -/
abbrev HandlerCode := BitVec 3

end Sys2Proof
end

