-- ==== Sys2Proof/Syntax.lean ====
section
/-! DEFINITION. The 18 operations of spec/opcode_table.json as syntax. -/

namespace Sys2Proof

/-- One constructor per row of the opcode table: the nine host commands (format C), the two operations of the
timer (format T), and the seven arms of the completion handler (format X). -/
inductive Instr where
  /-- INIT, 41_transport_control.md R70. -/
  | init
  /-- DETECT_PRESENCE, 42_presence.md R80. -/
  | detectPresence
  /-- GET_PRESENCE, 41_transport_control.md R72. -/
  | getPresence
  /-- WRITE_BIT b, 43_bit_ops.md R90. -/
  | writeBit (b : Bit)
  /-- READ_BIT, 43_bit_ops.md R91. -/
  | readBit
  /-- WRITE_BYTE v, 44_byte_ops.md R100. -/
  | writeByte (v : Byte)
  /-- START_READ_BYTE, 44_byte_ops.md R101. -/
  | startReadByte
  /-- IS_IDLE, 41_transport_control.md R71. -/
  | isIdle
  /-- GET_LAST_BYTE, 41_transport_control.md R73. -/
  | getLastByte
  /-- ARM n, 40_timer.md R60. -/
  | arm (n : Ticks)
  /-- STOP, 40_timer.md R61. -/
  | stop
  /-- EXP.IDLE, 60_exceptions.md R144. -/
  | expIdle
  /-- EXP.PDL, 42_presence.md R81. -/
  | expPdl
  /-- EXP.PS, 42_presence.md R82. -/
  | expPs
  /-- EXP.PR, 42_presence.md R83. -/
  | expPr
  /-- EXP.W0R, 44_byte_ops.md R102. -/
  | expW0r
  /-- EXP.W1R, 44_byte_ops.md R102. -/
  | expW1r
  /-- EXP.RR, 44_byte_ops.md R103. -/
  | expRr
deriving DecidableEq, Repr

end Sys2Proof
end

