-- ==== Sys2Proof/WellFormed.lean ====
section
/-! DEFINITION. The operand values an instruction may carry. -/

namespace Sys2Proof

/-- `ARM n` has n >= 1: "`ARM 0` is not defined by the source" (40_timer.md R60, R65). Every other operand is
bounded by its type alone. -/
def Instr.wf : Instr → Bool
  | .init => true
  | .detectPresence => true
  | .getPresence => true
  | .writeBit _ => true
  | .readBit => true
  | .writeByte _ => true
  | .startReadByte => true
  | .isIdle => true
  | .getLastByte => true
  | .arm n => n != 0
  | .stop => true
  | .expIdle => true
  | .expPdl => true
  | .expPs => true
  | .expPr => true
  | .expW0r => true
  | .expW1r => true
  | .expRr => true

end Sys2Proof
end

