-- ==== Sys2Proof/Decode.lean ====
section
/-! DEFINITION. From the words of the three ports to instructions and back (spec/30_encoding.md). -/

namespace Sys2Proof

/-- The word of an instruction, on the port that carries it: the formats C, T and X of 30_encoding.md R42, R47, R48. -/
inductive PortWord where
  | command (w : CommandWord)
  | timer (t : TimerWord)
  | handler (x : HandlerCode)
deriving DecidableEq, Repr

/-- Why a word is no instruction. -/
inductive DecodeError where
  /-- A command opcode 0x9 to 0xF (30_encoding.md R45). -/
  | reservedOpcode (op : BitVec 4)
  /-- Timer port `top` = 0b00, "no operation" (30_encoding.md R47). -/
  | timerNoOperation
  /-- Timer port `top` = 0b11, "reserved and never produced" (30_encoding.md R47). -/
  | reservedTimerOperation
  /-- Handler code 7: `BS` has no eighth value (10_state.md R11, 93_implementation_defined.md U9). -/
  | noHandler
deriving DecidableEq, Repr

/-- `op` = cmd[11:8] (30_encoding.md R42). -/
def opField (w : CommandWord) : BitVec 4 := w.extractLsb' 8 4

/-- `arg` = cmd[7:0] (30_encoding.md R42). -/
def argField (w : CommandWord) : Byte := w.extractLsb' 0 8

/-- The operand of `WRITE_BIT`: arg[0] (30_encoding.md R52). -/
def bitOperand (w : CommandWord) : Bit := w.extractLsb' 0 1

/-- `top` = t[17:16] (30_encoding.md R47). -/
def topField (t : TimerWord) : BitVec 2 := t.extractLsb' 16 2

/-- `ticks` = t[15:0] (30_encoding.md R47). -/
def ticksField (t : TimerWord) : Ticks := t.extractLsb' 0 16

/-- The opcode map of 30_encoding.md R43; the reserved opcodes of R45 by name. -/
def decodeCommand (w : CommandWord) : Except DecodeError Instr :=
  match (opField w).toNat with
  | 0x0 => .ok .init
  | 0x1 => .ok .detectPresence
  | 0x2 => .ok .getPresence
  | 0x3 => .ok (.writeBit (bitOperand w))
  | 0x4 => .ok .readBit
  | 0x5 => .ok (.writeByte (argField w))
  | 0x6 => .ok .startReadByte
  | 0x7 => .ok .isIdle
  | 0x8 => .ok .getLastByte
  | _ => .error (.reservedOpcode (opField w))

/-- The internal timer port of 30_encoding.md R47. -/
def decodeTimer (t : TimerWord) : Except DecodeError Instr :=
  match (topField t).toNat with
  | 0b00 => .error .timerNoOperation
  | 0b01 => .ok .stop
  | 0b10 => .ok (.arm (ticksField t))
  | _ => .error .reservedTimerOperation

/-- The handler table of 30_encoding.md R48. -/
def decodeHandler (x : HandlerCode) : Except DecodeError Instr :=
  match x.toNat with
  | 0 => .ok .expIdle
  | 1 => .ok .expPdl
  | 2 => .ok .expPs
  | 3 => .ok .expPr
  | 4 => .ok .expW0r
  | 5 => .ok .expW1r
  | 6 => .ok .expRr
  | _ => .error .noHandler

/-- The decoder, total on every word of every port. -/
def decode : PortWord → Except DecodeError Instr
  | .command w => decodeCommand w
  | .timer t => decodeTimer t
  | .handler x => decodeHandler x

/-- A command word `(op << 8) | arg` (30_encoding.md R50). -/
def commandWord (op : BitVec 4) (arg : Byte) : CommandWord := op ++ arg

/-- A timer port word: `top` in bits 17..16, `ticks` in bits 15..0 (30_encoding.md R47). -/
def timerWord (top : BitVec 2) (n : Ticks) : TimerWord := top ++ n

/-- The encoder; unused bits are written 0 (30_encoding.md R46, R50). -/
def encode : Instr → PortWord
  | .init => .command (commandWord 0x0 0)
  | .detectPresence => .command (commandWord 0x1 0)
  | .getPresence => .command (commandWord 0x2 0)
  | .writeBit b => .command (commandWord 0x3 (b.setWidth 8))
  | .readBit => .command (commandWord 0x4 0)
  | .writeByte v => .command (commandWord 0x5 v)
  | .startReadByte => .command (commandWord 0x6 0)
  | .isIdle => .command (commandWord 0x7 0)
  | .getLastByte => .command (commandWord 0x8 0)
  | .arm n => .timer (timerWord 0b10 n)
  | .stop => .timer (timerWord 0b01 0)
  | .expIdle => .handler 0
  | .expPdl => .handler 1
  | .expPs => .handler 2
  | .expPr => .handler 3
  | .expW0r => .handler 4
  | .expW1r => .handler 5
  | .expRr => .handler 6

/-- The port word that a row of the opcode table numbers: a row of up to 8 bits is of format X, of up to 16 of
format C, of more of format T (the widths 3, 12 and 18, each padded to whole bytes). A number that does not fit the
port has no word (DESIGN CHOICE, log 19): safe. -/
def tableWord (nbits w : Nat) : Option PortWord :=
  if nbits ≤ 8 then (if w < 2 ^ 3 then some (.handler (BitVec.ofNat 3 w)) else none)
  else if nbits ≤ 16 then (if w < 2 ^ 12 then some (.command (BitVec.ofNat 12 w)) else none)
  else (if w < 2 ^ 18 then some (.timer (BitVec.ofNat 18 w)) else none)

/-- The instruction the decoder reads from a word numbered as the opcode table numbers it. -/
def decodeTableWord (nbits w : Nat) : Option Instr :=
  match tableWord nbits w with
  | some p => (decode p).toOption
  | none => none

end Sys2Proof
end

