-- ==== Sys2Proof/Config.lean ====
section
/-! DEFINITION. The implementation parameters of spec/00_scope.md section 5, and the values the spec leaves free
(opaque constants: no proof can see a value of one). -/

namespace Sys2Proof.Config

/-- TICKS_PER_US (00_scope.md R4): "2 ticks = 1 microsecond in the reference system". -/
def ticksPerUs : Nat := 2

/-- A duration of the source, in microseconds, as a number of ticks (00_scope.md R5). -/
def us (n : Nat) : Nat := n * ticksPerUs

/-- T_PRES_LOW: presence drive-low, 480 µs (00_scope.md R5). -/
def tPresLow : Nat := us 480

/-- T_PRES_SAMPLE: presence sample offset, 70 µs by the handler table; DESIGN CHOICE of the spec between two
values of the source, 90_conflicts.md C1, D9 (log 12): unsafe. -/
def tPresSample : Nat := us 70

/-- T_PRES_REC: presence recovery, 410 µs (00_scope.md R5). -/
def tPresRec : Nat := us 410

/-- T_RD_INIT: read-slot init low pulse, 6 µs (00_scope.md R5). -/
def tRdInit : Nat := us 6

/-- T_RD_SAMPLE: read sample offset after release, 9 µs (00_scope.md R5). -/
def tRdSample : Nat := us 9

/-- T_RD_REC: read recovery, 55 µs (00_scope.md R5). -/
def tRdRec : Nat := us 55

/-- T_W0_LOW: write-0 drive low, 60 µs (00_scope.md R5). -/
def tW0Low : Nat := us 60

/-- T_W0_REC: write-0 recovery, 10 µs (00_scope.md R5). -/
def tW0Rec : Nat := us 10

/-- T_W1_LOW: write-1 drive low, 6 µs (00_scope.md R5). -/
def tW1Low : Nat := us 6

/-- T_W1_REC: write-1 recovery, 64 µs (00_scope.md R5). -/
def tW1Rec : Nat := us 64

/-- PRESENCE_OK_ALIASES_BIT0, default false (00_scope.md section 5, D12; log 14). -/
def presenceOkAliasesBit0 : Bool := false

/-- The level the bus environment answers at the k-th sample that no listed answer covers: free, "under no law"
(60_exceptions.md R151, 93_implementation_defined.md U11; log 6): safe. -/
opaque lineLevel : Nat → Bit

/-- CMD_SKIP, the "skip addressing" byte of the host: a parameter without a value (D27, N10; log 21): safe. -/
opaque cmdSkip : Byte

/-- CMD_WRITE_SCRATCHPAD of the host (D27, N10; log 21): safe. -/
opaque cmdWriteScratchpad : Byte

/-- CMD_CONVERT of the host (D27, N10; log 21): safe. -/
opaque cmdConvert : Byte

/-- CMD_READ_SCRATCHPAD of the host (D27, N10; log 21): safe. -/
opaque cmdReadScratchpad : Byte

/-- CFG_ALARM_HIGH of the host (D27, N11; log 21): safe. -/
opaque cfgAlarmHigh : Byte

/-- CFG_ALARM_LOW of the host (D27, N11; log 21): safe. -/
opaque cfgAlarmLow : Byte

/-- ACQ_TIMEOUT_TICKS of the host: the number of scheduler ticks an acquisition may take, a parameter without a value
(D27, U15, N14; log 22): safe. -/
opaque acqTimeoutTicks : Nat

/-- CFG_RESOLUTION of the host (D27, N11; log 21): safe. -/
opaque cfgResolution : Byte

end Sys2Proof.Config
end

