-- ==== Sys2Proof/Machine/State.lean ====
section
/-! DEFINITION. The state of the machine as plain data: the block's ten registers (spec/10_state.md R10), its response
port, the one host the spec describes, and the model's own record of the inputs to come and of what was observed. -/

namespace Sys2Proof.Machine

/-- `BusState`, seven mutually exclusive values (10_state.md R11). -/
inductive BusState where
  | idle
  | presenceDriveLow
  | presenceSample
  | presenceRecovery
  | write0Recovery
  | write1Recovery
  | readRecovery
deriving DecidableEq, Repr

/-- `PendingShift.direction` (10_state.md R14). -/
inductive Direction where
  | write
  | read
deriving DecidableEq, Repr

/-- `LastSample`, the five values of the mailbox (10_state.md R16). -/
inductive LastSample where
  | bit0
  | bit1
  | presenceOk
  | presenceNotOk
  | notReady
deriving DecidableEq, Repr

/-- The block: "exactly the ten elements of this table" (10_state.md R10). -/
structure Block where
  /-- `BS`, 10_state.md R11. -/
  bs : BusState
  /-- `VAL`, 10_state.md R12. -/
  val : Byte
  /-- `REM`, 10_state.md R13. -/
  rem : RemCount
  /-- `DIR`, 10_state.md R14. -/
  dir : Direction
  /-- `LAST`, 10_state.md R16. -/
  last : LastSample
  /-- `OWDRV`: true while the block pulls the line low, 10_state.md R17. -/
  owdrv : Bool
  /-- `CNT`, 10_state.md R18. -/
  cnt : Ticks
  /-- `CMP`, 10_state.md R19. -/
  cmp : Ticks
  /-- `RUN`, 10_state.md R20. -/
  run : Bool
  /-- `PEND`, 10_state.md R21. -/
  pend : Bool
deriving DecidableEq, Repr

/-- The reset column of 10_state.md R10, 70_reset_and_hazards.md R160 (log 1). -/
def Block.reset : Block where
  bs := .idle
  val := 0x00
  rem := 0
  dir := .write
  last := .notReady
  owdrv := false
  cnt := 0
  cmp := 0
  run := false
  pend := false

/-- The alphabet of the observation trace (00_scope.md section 8). -/
inductive TraceEvent where
  /-- `DL`: the line driver was turned on. -/
  | dl
  /-- `RL`: the line driver was turned off. -/
  | rl
  /-- `BW(n)`: n ticks passed inside an atomic step. -/
  | bw (n : Nat)
  /-- `SM(b)`: the line was sampled and read b. -/
  | sm (b : Bit)
  /-- `STOP`: `Timer.Stop()` was performed. -/
  | stop
  /-- `ARM(n)`: `Timer.Arm(n)` was performed. -/
  | arm (n : Ticks)
  /-- `EXP`: the completion handler started. -/
  | exp
deriving DecidableEq, Repr

/-- The five public operations of the Device Command Sequencer (48_host_sequencer.md R115 to R119). -/
inductive ApiCall where
  /-- `Initialize()`, R115. -/
  | seqInit
  /-- `Configure()`, R116. -/
  | configure
  /-- `StartAcquisition()`, R117. -/
  | startAcquisition
  /-- `IsTemperatureReady()`, R118. -/
  | isTemperatureReady
  /-- `GetTemperature()`, R119. -/
  | getTemperature
deriving DecidableEq, Repr

/-- What a call of the sequencer's interface returns (48_host_sequencer.md R118, R119). -/
inductive ApiResult where
  | ready (b : Bool)
  | temperature (raw : BitVec 16)
deriving DecidableEq, Repr

/-- One move of one agent (00_scope.md R1); which of them comes next is listed in `State.inbox` (log 4). -/
inductive Input where
  /-- `rst` is asserted (70_reset_and_hazards.md R160). -/
  | reset
  /-- The host presents a command word (30_encoding.md R41). -/
  | command (w : CommandWord)
  /-- A word on the internal timer port, driven from a test bench (30_encoding.md R47; log 10). -/
  | timerPort (t : TimerWord)
  /-- A rising edge of `clk` (40_timer.md R62). -/
  | tick
  /-- The platform lets the completion handler run, if an event is pending (60_exceptions.md R142). -/
  | expire
  /-- The host's scheduler tick: one call of the sequencer's task (48_host_sequencer.md R120), counted against the
  acquisition under way (R129). -/
  | schedulerTick
  /-- A call of the sequencer's interface (48_host_sequencer.md R115 to R119). -/
  | api (c : ApiCall)
  /-- The control loop, by a count of its own, ends the acquisition's time (48_host_sequencer.md R129; log 22). -/
  | acquisitionTimeout
deriving DecidableEq, Repr

/-- `DeviceSequencerState`, eleven values (48_host_sequencer.md R112). -/
inductive SeqState where
  | idle
  | detectPresence
  | skipAddressing
  | configurePre
  | configureAlarmHigh
  | configureAlarmLow
  | configureResolution
  | convertTemperature
  | readScratchpadCmd
  | acquiringScratchpad
  | errorFound
deriving DecidableEq, Repr

/-- The Device Command Sequencer, the host the spec describes (48_host_sequencer.md; log 20). -/
structure Sequencer where
  /-- `DeviceSequencerState`, R112. -/
  state : SeqState
  /-- The six flags of `DeviceEventFlags`, R113. -/
  configuring : Bool
  acquiring : Bool
  conversionFinished : Bool
  temperatureReady : Bool
  configured : Bool
  timeoutExpired : Bool
  /-- `Scratchpad`, nine bytes, R114. -/
  scratchpad : Vector Byte 9
  /-- How many bytes of the scratchpad the running read has stored, R126. -/
  stored : Nat
  /-- The last decoded scratchpad value, R119, R127. -/
  temperature : BitVec 16
  /-- The `DETECT_PRESENCE` that R125 leaves to a later task call is still to be issued (log 24). -/
  detectOwed : Bool
  /-- The scheduler ticks that the acquisition under way has taken, R129 (log 22). -/
  waited : Nat
deriving DecidableEq, Repr

/-- "`Seq.Idle` with all flags clear" (48_host_sequencer.md R115); the rest is the model's (log 25). -/
def Sequencer.initial : Sequencer where
  state := .idle
  configuring := false
  acquiring := false
  conversionFinished := false
  temperatureReady := false
  configured := false
  timeoutExpired := false
  scratchpad := Vector.replicate 9 0
  stored := 0
  temperature := 0
  detectOwed := false
  waited := 0

/-- The machine. `block` is the whole state of the hardware (10_state.md R10); the other fields are its response
port, the host, and the model's own data (log 3). -/
structure State where
  /-- The ten registers of the block. -/
  block : Block
  /-- `rsp` with `rsp_valid`: the response of the command just completed (30_encoding.md R40, R41; log 8). -/
  rsp : Option Byte
  /-- The Device Command Sequencer (48_host_sequencer.md). -/
  seq : Sequencer
  /-- What the sequencer call just made returned (log 28). -/
  ret : Option ApiResult
  /-- The moves of the agents to come, oldest first (log 4). -/
  inbox : List Input
  /-- The levels the bus environment answers at the coming samples, oldest first (60_exceptions.md R151; log 6). -/
  line : List Bit
  /-- How many free line levels were drawn (log 6). -/
  draws : Nat
  /-- Ticks of `clk` so far (log 16). -/
  now : Nat
  /-- The observation trace, oldest first (00_scope.md section 8; log 26). -/
  trace : List TraceEvent
  /-- A step refuses a host that breaks the duties of 93_implementation_defined.md U2 and U8 (log 9). -/
  contract : Bool
deriving DecidableEq, Repr

/-- The block raises nothing: "No command and no handler arm raises an exception, traps or faults; no cause code
exists" (60_exceptions.md R140). No constructor, so no step can fault. -/
inductive Fault where
deriving DecidableEq, Repr

/-- Why a step has no meaning. -/
inductive Refusal where
  /-- Raised by `exec` for an instruction without a meaning yet; safe. No arm raises it. -/
  | notModelled (mnemonic : String)
  /-- Raised by `ARM 0`: "A model refuses `ARM 0`" (40_timer.md R65, U1); safe. -/
  | armZero
  /-- Raised by a timer port word with `top` = 0b11, "reserved and never produced" (30_encoding.md R47); safe. -/
  | reservedTimerOperation
  /-- Raised, only while `State.contract` is set, by a reserved command opcode: "the model refuses a host that issues
  one" (30_encoding.md R45, U8); safe. -/
  | reservedOpcode (w : CommandWord)
  /-- Raised, only while `State.contract` is set, by an initiating command outside `Idle` (70_reset_and_hazards.md
  R163, U2); safe. -/
  | initiatedWhileBusy
deriving DecidableEq, Repr

/-- One step's or one instruction's outcome. -/
abbrev Result := Host.Outcome State Fault Refusal

/-- The machine right after reset: the block as 70_reset_and_hazards.md R160 says; no input listed, nothing observed
(log 1, log 2, log 3). -/
def State.reset : State where
  block := Block.reset
  rsp := none
  seq := Sequencer.initial
  ret := none
  inbox := []
  line := []
  draws := 0
  now := 0
  trace := []
  contract := false

end Sys2Proof.Machine
end

