-- ==== Sys2Proof/Machine/Operands.lean ====
section
/-! DEFINITION. The operands of the rules: what is read from the registers, how `VAL` shifts, the encodings of the
enumerations, and the response values (spec/10_state.md, spec/30_encoding.md R44, R49). -/

namespace Sys2Proof.Machine

/-- The encoding of `BS` (10_state.md R11), which is the handler code of format X (30_encoding.md R48). -/
def BusState.code : BusState → HandlerCode
  | .idle => 0
  | .presenceDriveLow => 1
  | .presenceSample => 2
  | .presenceRecovery => 3
  | .write0Recovery => 4
  | .write1Recovery => 5
  | .readRecovery => 6

/-- The bus state of a code; code 7 names none (10_state.md R11, U9). -/
def BusState.ofCode (x : HandlerCode) : Option BusState :=
  match x.toNat with
  | 0 => some .idle
  | 1 => some .presenceDriveLow
  | 2 => some .presenceSample
  | 3 => some .presenceRecovery
  | 4 => some .write0Recovery
  | 5 => some .write1Recovery
  | 6 => some .readRecovery
  | _ => none

/-- The encoding of `DIR` (10_state.md R14). -/
def Direction.code : Direction → BitVec 1
  | .write => 0
  | .read => 1

/-- The encoding of `LAST` (10_state.md R16); 5, 6 and 7 are not produced. -/
def LastSample.code : LastSample → BitVec 3
  | .bit0 => 0
  | .bit1 => 1
  | .presenceOk => 2
  | .presenceNotOk => 3
  | .notReady => 4

/-- `VAL[0]`, the bit a write slot sends (44_byte_ops.md R100, R102). -/
def nextBit (v : Byte) : Bit := v.extractLsb' 0 1

/-- `VAL >> 1`, logical (44_byte_ops.md R102, R103). -/
def shiftRight (v : Byte) : Byte := v >>> 1

/-- `VAL | 0x80`: a sampled 1 enters at bit 7 (44_byte_ops.md R103). -/
def insertTop (v : Byte) : Byte := v ||| 0x80

/-- `zext_8` of a level (30_encoding.md R44). -/
def levelResponse (b : Bit) : Byte := b.setWidth 8

/-- A Boolean response: 0x01 or 0x00 (30_encoding.md R44). -/
def boolResponse (b : Bool) : Byte := if b then 0x01 else 0x00

/-- A duration of the configuration as an operand of the timer. -/
def ticks (n : Nat) : Ticks := BitVec.ofNat 16 n

/-- `{Scratchpad[1], Scratchpad[0]}`, byte 0 the low byte (48_host_sequencer.md R127). -/
def decodeTemperature (scratchpad : Vector Byte 9) : BitVec 16 := scratchpad[1] ++ scratchpad[0]

end Sys2Proof.Machine
end

