-- ==== Sys2Proof/Machine/Flags.lean ====
section
/-! DEFINITION. The flag computations of the rules: what enters the mailbox `LAST`, what it answers, and what the
timer's tick does to `RUN` and `PEND`. -/

namespace Sys2Proof.Machine

/-- What the presence sample puts in the mailbox: low is "device responded" (42_presence.md R82). -/
def presenceMailbox (b : Bit) : LastSample := if b = 0 then .presenceOk else .presenceNotOk

/-- What a read slot puts in the mailbox (43_bit_ops.md R91). -/
def bitMailbox (s : Bit) : LastSample := if s = 1 then .bit1 else .bit0

/-- `GET_PRESENCE`'s test of the mailbox, for either value of the parameter PRESENCE_OK_ALIASES_BIT0
(41_transport_control.md R72). -/
def presenceAnswer (aliasesBit0 : Bool) (last : LastSample) : Bool :=
  last == .presenceOk || (aliasesBit0 && last == .bit0)

/-- The byte accumulator takes the mailbox: OR 0x80 if it holds `Bit1`, nothing otherwise (44_byte_ops.md R103). -/
def accumulate (last : LastSample) (v : Byte) : Byte := if last = .bit1 then insertTop v else v

/-- The `BS` of a write slot's recovery (43_bit_ops.md R90). -/
def writeRecoveryState (b : Bit) : BusState := if b = 1 then .write1Recovery else .write0Recovery

/-- The low pulse of a write slot, in ticks (43_bit_ops.md R90). -/
def writeLowTicks (b : Bit) : Nat := if b = 1 then Config.tW1Low else Config.tW0Low

/-- The recovery of a write slot, in ticks (43_bit_ops.md R90). -/
def writeRecoveryTicks (b : Bit) : Ticks := ticks (if b = 1 then Config.tW1Rec else Config.tW0Rec)

/-- TICK on the block's registers (40_timer.md R62): a running counter adds one; on reaching the target it halts and
the completion event fires. -/
def Block.tick (k : Block) : Block :=
  if k.run then
    if k.cnt + 1 = k.cmp then { k with cnt := k.cnt + 1, run := false, pend := true }
    else { k with cnt := k.cnt + 1 }
  else k

end Sys2Proof.Machine
end

