-- ==== Sys2Proof/Machine/Ops.lean ====
section
/-! DEFINITION. The named operations over the state: the primitives of spec/00_scope.md section 7, the entry of the
completion handler (spec/60_exceptions.md R142), and the bodies that several rules perform. -/

namespace Sys2Proof.Machine

/-! ## Updates -/

/-- Writes registers of the block. -/
def State.onBlock (f : Block → Block) (s : State) : State := { s with block := f s.block }

/-- Writes the sequencer's variables. -/
def State.onSeq (f : Sequencer → Sequencer) (s : State) : State := { s with seq := f s.seq }

/-- Appends an event to the trace (00_scope.md section 8). -/
def emit (e : TraceEvent) (s : State) : State := { s with trace := s.trace ++ [e] }

/-- `return v`: the response on `rsp` with `rsp_valid` (30_encoding.md R41, R44). -/
def respond (v : Byte) (s : State) : State := { s with rsp := some v }

/-- Runs `f` on a next state; a stop stays as it is. -/
def andThen (o : Result) (f : State → Result) : Result :=
  match o with
  | .next s => f s
  | .fault r => .fault r
  | .refused r => .refused r

/-! ## The line -/

/-- `DriveLow()` (60_exceptions.md R150). -/
def driveLow (s : State) : State := emit .dl (s.onBlock fun k => { k with owdrv := true })

/-- `Release()` (60_exceptions.md R150). -/
def release (s : State) : State := emit .rl (s.onBlock fun k => { k with owdrv := false })

/-- The bus environment's answer to one sample, and the state that is left of it: the oldest listed level, or a free
one (60_exceptions.md R151, U11; log 6). A line the block itself pulls low reads 0 (R151, D20; log 7). -/
def lineAnswer (s : State) : Bit × State :=
  if s.block.owdrv then (0, s)
  else
    match s.line with
    | b :: rest => (b, { s with line := rest })
    | [] => (Config.lineLevel s.draws, { s with draws := s.draws + 1 })

/-- `SampleLevel()`: the level, and `SM(b)` in the trace (60_exceptions.md R151). -/
def sampleLevel (s : State) : Bit × State := ((lineAnswer s).1, emit (.sm (lineAnswer s).1) (lineAnswer s).2)

/-! ## The timer -/

/-- `Timer.Arm(n)` for n >= 1; a fired event that waits for its handler is dropped (40_timer.md R60, D7; log 15). -/
def timerArm (n : Ticks) (s : State) : State :=
  emit (.arm n) (s.onBlock fun k => { k with cnt := 0, cmp := n, run := true, pend := false })

/-- `Timer.Stop()`; a fired event that waits for its handler is dropped (40_timer.md R61, D7; log 15). -/
def timerStop (s : State) : State := emit .stop (s.onBlock fun k => { k with run := false, pend := false })

/-- "the transport always stops-then-rearms" (40_timer.md R64). -/
def stopThenArm (n : Nat) (s : State) : State := timerArm (ticks n) (timerStop s)

/-- TICK: one rising edge of `clk` (40_timer.md R62); the model's clock counts it (log 16). -/
def tick (s : State) : State := { s with block := s.block.tick, now := s.now + 1 }

/-- n applications of TICK. -/
def tickN : Nat → State → State
  | 0, s => s
  | n + 1, s => tickN n (tick s)

/-- `BusyWait(n)`: n ticks inside the atomic step (43_bit_ops.md R92). -/
def busyWait (n : Nat) (s : State) : State := emit (.bw n) (tickN n s)

/-! ## The completion handler's entry, and reset -/

/-- What EXPIRE does before any arm: `PEND <- 0` and `EXP` in the trace (60_exceptions.md R142). Nothing is saved, and
the handler returns by ending its step (R147; log 17). -/
def enterHandler (s : State) : State := emit .exp (s.onBlock fun k => { k with pend := false })

/-- `BS <- Idle`, the end of an operation (42_presence.md R83, 44_byte_ops.md R102, R103). -/
def goIdle (s : State) : State := s.onBlock fun k => { k with bs := .idle }

/-- `rst`: the block's ten registers; "No trace event is produced" (70_reset_and_hazards.md R160; log 18, log 31). -/
def resetBlock (s : State) : State := s.onBlock fun _ => Block.reset

/-! ## The bodies of the two bit slots -/

/-- `do WRITE_BIT(b)`: the whole body of 43_bit_ops.md R90, without the response. -/
def writeBitBody (b : Bit) (s : State) : State :=
  let s := driveLow s
  let s := busyWait (writeLowTicks b) s
  let s := release s
  let s := timerStop s
  let s := timerArm (writeRecoveryTicks b) s
  s.onBlock fun k => { k with bs := writeRecoveryState b }

/-- `do READ_BIT()`: the whole body of 43_bit_ops.md R91, with the level it returns. -/
def readBitBody (s : State) : Bit × State :=
  let s := driveLow s
  let s := busyWait Config.tRdInit s
  let s := release s
  let s := busyWait Config.tRdSample s
  let a := sampleLevel s
  let s := a.2.onBlock fun k => { k with last := bitMailbox a.1 }
  let s := stopThenArm Config.tRdRec s
  (a.1, s.onBlock fun k => { k with bs := .readRecovery })

/-- The write-recovery arm, one action for both recovery states (44_byte_ops.md R102). -/
def writeRecoveryArm (s : State) : State :=
  if s.block.rem = 0 then goIdle s
  else
    let s := s.onBlock fun k => { k with rem := k.rem - 1, val := shiftRight k.val }
    writeBitBody (nextBit s.block.val) s

/-- The read-recovery arm (44_byte_ops.md R103). -/
def readRecoveryArm (s : State) : State :=
  let s := s.onBlock fun k => { k with val := accumulate k.last k.val, last := .notReady }
  if s.block.rem = 0 then goIdle s
  else (readBitBody (s.onBlock fun k => { k with rem := k.rem - 1, val := shiftRight k.val })).2

end Sys2Proof.Machine
end

