-- ==== Sys2Proof/Machine/BitSlots.lean ====
section
/-! DEFINITION. The two bit commands (spec/43_bit_ops.md). -/

namespace Sys2Proof.Machine

/-- WRITE_BIT b (43_bit_ops.md R90). -/
def execWriteBit (b : Bit) (s : State) : Result := .next (respond 0x00 (writeBitBody b s))

/-- READ_BIT (43_bit_ops.md R91). -/
def execReadBit (s : State) : Result :=
  let a := readBitBody s
  .next (respond (levelResponse a.1) a.2)

end Sys2Proof.Machine
end

