-- ==== Sys2Proof/Machine/ByteTransfer.lean ====
section
/-! DEFINITION. Byte transfer and the recovery arms of the handler (spec/44_byte_ops.md). -/

namespace Sys2Proof.Machine

/-- WRITE_BYTE v (44_byte_ops.md R100). -/
def execWriteByte (v : Byte) (s : State) : Result :=
  let s := s.onBlock fun k => { k with val := v, rem := 7, dir := .write }
  .next (respond 0x00 (writeBitBody (nextBit s.block.val) s))

/-- START_READ_BYTE (44_byte_ops.md R101); the level `do READ_BIT()` returns is discarded. -/
def execStartReadByte (s : State) : Result :=
  let s := s.onBlock fun k => { k with val := 0x00, rem := 7, dir := .read }
  .next (respond 0x00 (readBitBody s).2)

/-- EXP.W0R (44_byte_ops.md R102). -/
def execExpW0r (s : State) : Result := .next (writeRecoveryArm (enterHandler s))

/-- EXP.W1R (44_byte_ops.md R102). -/
def execExpW1r (s : State) : Result := .next (writeRecoveryArm (enterHandler s))

/-- EXP.RR (44_byte_ops.md R103). -/
def execExpRr (s : State) : Result := .next (readRecoveryArm (enterHandler s))

end Sys2Proof.Machine
end

