-- ==== Sys2Proof/Machine/Control.lean ====
section
/-! DEFINITION. Control and status commands (spec/41_transport_control.md), and the handler's arm for `Idle`. -/

namespace Sys2Proof.Machine

/-- INIT (41_transport_control.md R70). -/
def execInit (s : State) : Result :=
  let s := timerStop s
  let s := release s
  let s := s.onBlock fun k =>
    { k with bs := .idle, last := .notReady, val := 0x00, rem := 0, dir := .write }
  .next (respond 0x00 s)

/-- IS_IDLE (41_transport_control.md R71). -/
def execIsIdle (s : State) : Result := .next (respond (boolResponse (s.block.bs == .idle)) s)

/-- GET_PRESENCE (41_transport_control.md R72). -/
def execGetPresence (s : State) : Result :=
  let r := boolResponse (presenceAnswer Config.presenceOkAliasesBit0 s.block.last)
  .next (respond r (s.onBlock fun k => { k with last := .notReady }))

/-- GET_LAST_BYTE (41_transport_control.md R73). -/
def execGetLastByte (s : State) : Result := .next (respond s.block.val s)

/-- EXP.IDLE: nothing beyond the entry of the handler (60_exceptions.md R144). -/
def execExpIdle (s : State) : Result := .next (enterHandler s)

end Sys2Proof.Machine
end

