-- ==== Sys2Proof/Machine/Presence.lean ====
section
/-! DEFINITION. The bus reset with presence detect (spec/42_presence.md). -/

namespace Sys2Proof.Machine

/-- DETECT_PRESENCE (42_presence.md R80). -/
def execDetectPresence (s : State) : Result :=
  let s := driveLow s
  let s := stopThenArm Config.tPresLow s
  let s := s.onBlock fun k => { k with bs := .presenceDriveLow }
  .next (respond 0x00 s)

/-- EXP.PDL (42_presence.md R81). -/
def execExpPdl (s : State) : Result :=
  let s := enterHandler s
  let s := release s
  let s := stopThenArm Config.tPresSample s
  .next (s.onBlock fun k => { k with bs := .presenceSample })

/-- EXP.PS (42_presence.md R82). -/
def execExpPs (s : State) : Result :=
  let s := enterHandler s
  let a := sampleLevel s
  let s := a.2.onBlock fun k => { k with last := presenceMailbox a.1 }
  let s := stopThenArm Config.tPresRec s
  .next (s.onBlock fun k => { k with bs := .presenceRecovery })

/-- EXP.PR (42_presence.md R83). -/
def execExpPr (s : State) : Result := .next (goIdle (enterHandler s))

end Sys2Proof.Machine
end

