-- ==== Sys2Proof/Machine/Timer.lean ====
section
/-! DEFINITION. The timer's two operations (spec/40_timer.md). -/

namespace Sys2Proof.Machine

/-- ARM n (40_timer.md R60); "A model refuses `ARM 0`" (R65, U1; log 11). -/
def execArm (n : Ticks) (s : State) : Result :=
  if n = 0 then .refused .armZero else .next (timerArm n s)

/-- STOP (40_timer.md R61). -/
def execStop (s : State) : Result := .next (timerStop s)

end Sys2Proof.Machine
end

