-- ==== Sys2Proof/Machine/Dispatch.lean ====
section
/-! DEFINITION. One arm per constructor of Instr: each calls the meaning of its instruction. -/

namespace Sys2Proof.Machine

def exec (i : Instr) (s : State) : Host.Outcome State Fault Refusal :=
  match i with
  | .init => Sys2Proof.Machine.execInit s
  | .detectPresence => Sys2Proof.Machine.execDetectPresence s
  | .getPresence => Sys2Proof.Machine.execGetPresence s
  | .writeBit b => Sys2Proof.Machine.execWriteBit b s
  | .readBit => Sys2Proof.Machine.execReadBit s
  | .writeByte v => Sys2Proof.Machine.execWriteByte v s
  | .startReadByte => Sys2Proof.Machine.execStartReadByte s
  | .isIdle => Sys2Proof.Machine.execIsIdle s
  | .getLastByte => Sys2Proof.Machine.execGetLastByte s
  | .arm n => Sys2Proof.Machine.execArm n s
  | .stop => Sys2Proof.Machine.execStop s
  | .expIdle => Sys2Proof.Machine.execExpIdle s
  | .expPdl => Sys2Proof.Machine.execExpPdl s
  | .expPs => Sys2Proof.Machine.execExpPs s
  | .expPr => Sys2Proof.Machine.execExpPr s
  | .expW0r => Sys2Proof.Machine.execExpW0r s
  | .expW1r => Sys2Proof.Machine.execExpW1r s
  | .expRr => Sys2Proof.Machine.execExpRr s

end Sys2Proof.Machine
end

