-- ==== Sys2Proof/Machine/HostPort.lean ====
section
/-! DEFINITION. How the block takes a word: the command port (spec/30_encoding.md R41), the internal timer port (R47)
and the dispatch of the completion handler (R48, spec/60_exceptions.md R142, R143); the port's output lines (R40). -/

namespace Sys2Proof.Machine

/-- The commands that initiate a bus operation (30_encoding.md R43, 70_reset_and_hazards.md R163). -/
def initiates : Instr → Bool
  | .init => false
  | .detectPresence => true
  | .getPresence => false
  | .writeBit _ => true
  | .readBit => true
  | .writeByte _ => true
  | .startReadByte => true
  | .isIdle => false
  | .getLastByte => false
  | .arm _ => false
  | .stop => false
  | .expIdle => false
  | .expPdl => false
  | .expPs => false
  | .expPr => false
  | .expW0r => false
  | .expW1r => false
  | .expRr => false

/-- `idle`: `BS == Idle` (30_encoding.md R40, D29). -/
def State.idlePort (s : State) : Bool := s.block.bs == .idle

/-- `ow_drv`: a copy of `OWDRV` (30_encoding.md R40, 60_exceptions.md R150). -/
def State.owDrvPort (s : State) : Bool := s.block.owdrv

/-- `cmd_ready`: 1 between steps, since a command or handler run is one atomic step (30_encoding.md R41; log 27). -/
def State.cmdReadyPort (_ : State) : Bool := true

/-- `rsp_valid` (30_encoding.md R40). -/
def State.rspValidPort (s : State) : Bool := s.rsp.isSome

/-- The host breaks "initiate only in `Idle`" (70_reset_and_hazards.md R163). -/
def breaksIdleDuty (i : Instr) (s : State) : Bool := initiates i && !s.idlePort

/-- The block performs a command. It checks no duty of the host (00_scope.md R3): the rule runs in whatever state it
finds, unless the run is one that refuses breaches (`contract`, U2; log 9). -/
def issue (i : Instr) (s : State) : Result :=
  if s.contract && breaksIdleDuty i s then .refused .initiatedWhileBusy else exec i s

/-- A reserved opcode "changes no state, starts no bus activity and returns 0x00" (30_encoding.md R45), or is refused
where the run refuses breaches (U8; log 9). -/
def reservedCommand (w : CommandWord) (s : State) : Result :=
  if s.contract then .refused (.reservedOpcode w) else .next (respond 0x00 s)

/-- A word on the command port is taken (30_encoding.md R41). -/
def takeCommand (w : CommandWord) (s : State) : Result :=
  match decode (.command w) with
  | .ok i => issue i s
  | .error _ => reservedCommand w s

/-- A word on the internal timer port (30_encoding.md R47; log 10). -/
def takeTimerWord (t : TimerWord) (s : State) : Result :=
  match decode (.timer t) with
  | .ok i => exec i s
  | .error .timerNoOperation => .next s
  | .error _ => .refused .reservedTimerOperation

/-- The handler table (60_exceptions.md R143). -/
def handlerArm : BusState → Instr
  | .idle => .expIdle
  | .presenceDriveLow => .expPdl
  | .presenceSample => .expPs
  | .presenceRecovery => .expPr
  | .write0Recovery => .expW0r
  | .write1Recovery => .expW1r
  | .readRecovery => .expRr

/-- EXPIRE, "enabled when `PEND == 1`" (60_exceptions.md R142): the arm that `BS` selects. With no event pending the
handler is not called and nothing happens (log 5). -/
def expireStep (s : State) : Result :=
  if s.block.pend then exec (handlerArm s.block.bs) s else .next s

end Sys2Proof.Machine
end

