-- ==== Sys2Proof/Machine/Sequencer.lean ====
section
/-! DEFINITION. The Device Command Sequencer, the one host the spec describes (spec/48_host_sequencer.md). It reaches
the block only through commands and their responses (R110, spec/10_state.md R25). One call of its task, or of its
interface, is one step: the handler does not preempt it (R132; log 20). -/

namespace Sys2Proof.Machine

/-- Issues a command and then writes the sequencer's variables. -/
def issueThen (i : Instr) (f : Sequencer → Sequencer) (s : State) : Result :=
  andThen (issue i s) fun t => .next (t.onSeq f)

/-- Row `Seq.Idle` (48_host_sequencer.md R121). -/
def seqRowIdle (s : State) : Result :=
  if s.seq.configuring || s.seq.acquiring then
    issueThen .detectPresence (fun q => { q with state := .detectPresence }) s
  else .next s

/-- Rows `DetectPresence` (R122), and the `DETECT_PRESENCE` that row `ConvertTemperature` left to this call
(R125, 90_conflicts.md C5; log 24). -/
def seqRowDetectPresence (s : State) : Result :=
  if s.seq.detectOwed then issueThen .detectPresence (fun q => { q with detectOwed := false }) s
  else
    andThen (issue .getPresence s) fun t =>
      if t.rsp = some 0x01 then
        issueThen (.writeByte Config.cmdSkip) (fun q => { q with state := .skipAddressing }) t
      else .next (t.onSeq fun q => { q with state := .errorFound })

/-- Rows `SkipAddressing`, in the table's order (R123). -/
def seqRowSkipAddressing (s : State) : Result :=
  if s.seq.configuring then
    issueThen (.writeByte Config.cmdWriteScratchpad) (fun q => { q with state := .configurePre }) s
  else if s.seq.acquiring then
    issueThen (.writeByte Config.cmdConvert) (fun q => { q with state := .convertTemperature }) s
  else if s.seq.conversionFinished then
    issueThen (.writeByte Config.cmdReadScratchpad) (fun q => { q with state := .readScratchpadCmd }) s
  else .next s

/-- A row of the configuration chain: the next configuration byte (R124). -/
def seqRowConfigure (v : Byte) (next : SeqState) (s : State) : Result :=
  issueThen (.writeByte v) (fun q => { q with state := next }) s

/-- Row `ConfigureResolution` (R124). -/
def seqRowConfigured (s : State) : Result :=
  .next (s.onSeq fun q => { q with configuring := false, configured := true, state := .idle })

/-- Row `ConvertTemperature`: one `READ_BIT` a call; response 1 ends the wait (R125). -/
def seqRowConvert (s : State) : Result :=
  andThen (issue .readBit s) fun t =>
    if t.rsp = some 0x01 then
      .next (t.onSeq fun q =>
        { q with acquiring := false, conversionFinished := true, state := .detectPresence, detectOwed := true })
    else .next t

/-- Row `ReadScratchpadCmd` (R126). -/
def seqRowReadScratchpad (s : State) : Result :=
  issueThen .startReadByte (fun q => { q with state := .acquiringScratchpad, stored := 0 }) s

/-- Stores a received byte at the next index of the scratchpad (R126). -/
def storeByte (v : Byte) (q : Sequencer) : Sequencer :=
  { q with scratchpad := q.scratchpad.setIfInBounds q.stored v, stored := q.stored + 1 }

/-- "clear acquiring, set temperatureReady", and the temperature is decoded (R126, R127). That `conversionFinished` stays
set, here and in every row, is the model's choice: "where `conversionFinished` is cleared, the source does not say" (R113,
N15, C9; log 30). -/
def finishAcquisition (q : Sequencer) : Sequencer :=
  { q with acquiring := false, temperatureReady := true, state := .idle,
           temperature := decodeTemperature q.scratchpad }

/-- Rows `AcquiringScratchpad`: one byte a call (R126). -/
def seqRowAcquire (s : State) : Result :=
  andThen (issue .getLastByte s) fun t =>
    let t := t.onSeq (storeByte (t.rsp.getD 0))
    if t.seq.stored < 9 then issue .startReadByte t else .next (t.onSeq finishAcquisition)

/-- Row `ErrorFound`: "no flag is changed by the table, no command is issued" (R128). -/
def seqRowError (s : State) : Result := .next (s.onSeq fun q => { q with state := .idle })

/-- The table of R120, one row. -/
def seqRow (s : State) : Result :=
  match s.seq.state with
  | .idle => seqRowIdle s
  | .detectPresence => seqRowDetectPresence s
  | .skipAddressing => seqRowSkipAddressing s
  | .configurePre => seqRowConfigure Config.cfgAlarmHigh .configureAlarmHigh s
  | .configureAlarmHigh => seqRowConfigure Config.cfgAlarmLow .configureAlarmLow s
  | .configureAlarmLow => seqRowConfigure Config.cfgResolution .configureResolution s
  | .configureResolution => seqRowConfigured s
  | .convertTemperature => seqRowConvert s
  | .readScratchpadCmd => seqRowReadScratchpad s
  | .acquiringScratchpad => seqRowAcquire s
  | .errorFound => seqRowError s

/-- An acquisition is under way: it was accepted, or the sequencer is off `Seq.Idle`, and not configuring (log 22). -/
def acquisitionUnderWay (q : Sequencer) : Bool := !q.configuring && (q.acquiring || q.state != .idle)

/-- A scheduler tick is counted against the acquisition under way; with the last tick of the bound the timeout has
expired (R129; log 22). -/
def countTick (q : Sequencer) : Sequencer :=
  if acquisitionUnderWay q then
    { q with waited := q.waited + 1
             timeoutExpired := q.timeoutExpired || decide (Config.acqTimeoutTicks ≤ q.waited + 1) }
  else q

/-- The timeout is serviced: its flag is cleared, and a running acquisition goes to `ErrorFound`, with nothing owed to
it and its count over (R129; log 22). -/
def serviceTimeout (q : Sequencer) : Sequencer :=
  if acquisitionUnderWay q then { q with timeoutExpired := false, state := .errorFound, detectOwed := false, waited := 0 }
  else { q with timeoutExpired := false }

/-- One call of the periodic task: it "advances `DeviceSequencerState` only when the Bus Transport reports idle"
(R120), except that row `ErrorFound` is unconditional (R128). -/
def seqTask (s : State) : Result :=
  if s.seq.state = .errorFound then seqRowError s
  else
    andThen (issue .isIdle s) fun t =>
      if t.rsp = some 0x01 then
        if t.seq.timeoutExpired then .next (t.onSeq serviceTimeout) else seqRow t
      else .next t

/-- A scheduler tick: it is counted, then the task is called once (R111, R120, R129). -/
def schedulerTick (s : State) : Result := seqTask (s.onSeq countTick)

/-- "an acquisition or configuration is in progress" (R117; log 23). -/
def seqBusy (q : Sequencer) : Bool := q.configuring || q.acquiring || q.state != .idle

/-- `Initialize()`'s effect on the sequencer: "`Seq.Idle` with all flags clear" (R115; log 25). -/
def seqClear (q : Sequencer) : Sequencer :=
  { Sequencer.initial with scratchpad := q.scratchpad, stored := q.stored, temperature := q.temperature }

/-- `Configure()` (R116). -/
def configureCall (q : Sequencer) : Sequencer :=
  if q.configured || q.configuring then q else { q with configuring := true }

/-- `StartAcquisition()` (R117); the acquisition's time starts (log 22). -/
def startAcquisitionCall (q : Sequencer) : Sequencer :=
  if !q.configured || seqBusy q then q else { q with acquiring := true, waited := 0 }

/-- A call of the sequencer's interface (R115 to R119). -/
def seqApi (c : ApiCall) (s : State) : Result :=
  match c with
  | .seqInit => issueThen .init seqClear s
  | .configure => .next (s.onSeq configureCall)
  | .startAcquisition => .next (s.onSeq startAcquisitionCall)
  | .isTemperatureReady =>
    .next { s.onSeq (fun q => { q with temperatureReady := false }) with ret := some (.ready s.seq.temperatureReady) }
  | .getTemperature =>
    .next { s.onSeq (fun q => { q with temperatureReady := false }) with ret := some (.temperature s.seq.temperature) }

end Sys2Proof.Machine
end

