-- ==== Sys2Proof/Machine/Agents.lean ====
section
/-! DEFINITION. Which agent moves next, and what each move is (spec/00_scope.md R1, spec/20_memory.md R36). -/

namespace Sys2Proof.Machine

/-- The next move: the oldest listed input; with none listed the block moves by itself, a pending handler run before
the next tick (60_exceptions.md R142, D21; log 4). -/
def nextInput (s : State) : Input :=
  match s.inbox with
  | e :: _ => e
  | [] => if s.block.pend then .expire else .tick

/-- The state a move starts in: its input is taken off the list, and the outputs of the last step are withdrawn
(log 8, log 28). -/
def openStep (s : State) : State := { s with inbox := s.inbox.tail, rsp := none, ret := none }

/-- The control loop ends the acquisition's time by a count of its own: the flag is set, for the next task call to
service (48_host_sequencer.md R129; log 22). -/
def raiseTimeout (s : State) : State := s.onSeq fun q => { q with timeoutExpired := true }

/-- One move, atomic with respect to all others (00_scope.md R1). That `rst` too is taken only between two steps, and so
never cuts a busy-wait short, is the model's choice: the spec does not say (70_reset_and_hazards.md R160; log 31). -/
def runInput (e : Input) (s : State) : Result :=
  match e with
  | .reset => .next (resetBlock s)
  | .command w => takeCommand w s
  | .timerPort t => takeTimerWord t s
  | .tick => .next (tick s)
  | .expire => expireStep s
  | .schedulerTick => schedulerTick s
  | .api c => seqApi c s
  | .acquisitionTimeout => .next (raiseTimeout s)

/-- Puts an input before all that are listed. -/
def putInput (e : Input) (s : State) : State := { s with inbox := e :: s.inbox }

/-- Stores an instruction's word where the next step takes it: on its port, at the head of the list; a handler code in
`BS`, with an event pending, since `BS` "is the opcode of the handler arm" (30_encoding.md R48; log 2). -/
def placeWord (p : PortWord) (s : State) : State :=
  match p with
  | .command w => putInput (.command w) s
  | .timer t => putInput (.timerPort t) s
  | .handler x =>
    match BusState.ofCode x with
    | some b => putInput .expire (s.onBlock fun k => { k with bs := b, pend := true })
    | none => s

end Sys2Proof.Machine
end

