-- ==== Sys2Proof/Machine/Step.lean ====
section
/-! DEFINITION. One step of the machine. -/

namespace Sys2Proof.Machine

/-- One step: the next move of the agent whose turn it is (00_scope.md R1). -/
def step (s : State) : Host.Outcome State Fault Refusal := runInput (nextInput s) (openStep s)

/-- The state in which the next step runs the instruction with this word, numbered as the opcode table numbers it. A
number that is no word of its port changes nothing (log 2, log 19). -/
def State.withFetchWord (s : State) (nbits w : Nat) : State :=
  match tableWord nbits w with
  | some p => placeWord p s
  | none => s

end Sys2Proof.Machine
end

