-- ==== Sys2Proof/Safety.lean ====
section
/-! DEFINITION. The terms in which claims speak of a run: the invariants of spec/10_state.md R23, quiescence
(spec/70_reset_and_hazards.md R173), and runs of the block by itself. -/

namespace Sys2Proof.Machine

/-- The values `CMP` ever holds: the six timer-waited durations "or 0 after reset" (10_state.md R23 (e)). -/
def compareTargets : List Ticks :=
  [ticks Config.tPresLow, ticks Config.tPresSample, ticks Config.tPresRec, ticks Config.tRdRec,
    ticks Config.tW0Rec, ticks Config.tW1Rec, 0]

/-- What R23 says survives any host (10_state.md R23, its last sentences; 90_conflicts.md C10): all of (a) to (e)
but `REM == 0` in `Idle`. -/
abbrev Block.AnyHostInv (k : Block) : Prop :=
  (k.bs = .idle → k.run = false ∧ k.pend = false ∧ k.owdrv = false) ∧
  (k.bs ≠ .idle → k.run = !k.pend) ∧
  (k.owdrv = true → k.bs = .presenceDriveLow) ∧
  (k.run = true → k.cnt.toNat < k.cmp.toNat) ∧
  k.cmp ∈ compareTargets

/-- The phases in which no byte is in progress. -/
def BusState.noByte : BusState → Bool
  | .idle => true
  | .presenceDriveLow => true
  | .presenceSample => true
  | .presenceRecovery => true
  | .write0Recovery => false
  | .write1Recovery => false
  | .readRecovery => false

/-- R23 whole, for a host that initiates only in `Idle`. That `REM` is 0 also in the presence phases is what makes
R23 (a) inductive; it is the model's addition. -/
abbrev Block.DutifulInv (k : Block) : Prop := k.AnyHostInv ∧ (k.bs.noByte = true → k.rem = 0)

/-- The input drives the internal timer port, which no agent of the spec but the transport does (40_timer.md R66;
log 10). -/
def Input.isTimerPort : Input → Bool
  | .reset => false
  | .command _ => false
  | .timerPort _ => true
  | .tick => false
  | .expire => false
  | .schedulerTick => false
  | .api _ => false
  | .acquisitionTimeout => false

/-- Only the transport operates the timer (40_timer.md R66). -/
def State.transportOnly (s : State) : Bool := s.inbox.all fun e => !e.isTimerPort

/-- "The block is quiescent when no step of its own is enabled" (70_reset_and_hazards.md R173). -/
def Block.quiescent (k : Block) : Bool := !k.run && !k.pend

/-- `b` is what the bus environment answers to the next sample of a line the block drives (`driving`) or has
released, and `l`, `d` are what is left of its listed levels and of the count of free ones (60_exceptions.md R151;
log 6, log 7). -/
abbrev State.answers (driving : Bool) (s : State) (b : Bit) (l : List Bit) (d : Nat) : Prop :=
  if driving then b = 0 ∧ l = s.line ∧ d = s.draws
  else (s.line = b :: l ∧ d = s.draws) ∨
    (s.line = [] ∧ l = [] ∧ b = Config.lineLevel s.draws ∧ d = s.draws + 1)

/-- The levels that the bus environment answers to the next n samples of a released line, from its listed levels and the
count of free ones (60_exceptions.md R151; log 6). -/
def levels : Nat → List Bit → Nat → List Bit
  | 0, _, _ => []
  | n + 1, b :: l, d => b :: levels n l d
  | n + 1, [], d => Config.lineLevel d :: levels n [] (d + 1)

/-- The move arms no timer, directly or through the host (70_reset_and_hazards.md R160): all but an initiating command, a
word of the timer port and a call of the sequencer's task. A reserved opcode, which a run may refuse, is left out. -/
def Input.armsNothing : Input → Bool
  | .reset => true
  | .command w =>
    match decode (.command w) with
    | .ok i => !initiates i
    | .error _ => false
  | .timerPort _ => false
  | .tick => true
  | .expire => true
  | .schedulerTick => false
  | .api _ => true
  | .acquisitionTimeout => true

/-- k steps in a row, stopping at the first stop. -/
def steps : Nat → State → Result
  | 0, s => .next s
  | k + 1, s => andThen (step s) (steps k)

/-- The trace of one write slot (43_bit_ops.md R90). -/
def writeSlotTrace (b : Bit) : List TraceEvent :=
  [.dl, .bw (writeLowTicks b), .rl, .stop, .arm (writeRecoveryTicks b)]

/-- The trace of one read slot that samples b (43_bit_ops.md R91). -/
def readSlotTrace (b : Bit) : List TraceEvent :=
  [.dl, .bw Config.tRdInit, .rl, .bw Config.tRdSample, .sm b, .stop, .arm (ticks Config.tRdRec)]

/-- The bits of a byte in the order they cross the bus, least significant first (20_memory.md R31). -/
def busBits (v : Byte) : List Bit :=
  [v.extractLsb' 0 1, v.extractLsb' 1 1, v.extractLsb' 2 1, v.extractLsb' 3 1,
    v.extractLsb' 4 1, v.extractLsb' 5 1, v.extractLsb' 6 1, v.extractLsb' 7 1]

end Sys2Proof.Machine
end

