-- ==== Sys2Proof/Certificates/Slice0/Obligations.lean ====
section
/-! DEFINITION. The statements for the provers. Each docstring names the rule of spec/ it formalises. -/

open Sys2Proof Sys2Proof.Machine

/-! ## Encodings -/

/-- 00_scope.md R4, R5: every phase duration, in ticks at two ticks a microsecond. T_PRES_SAMPLE is the value of the
handler table (90_conflicts.md C1; log 12). -/
def Obligations.PhaseDurationsInTicks : Prop :=
  Config.tPresLow = 960 ∧ Config.tPresSample = 140 ∧ Config.tPresRec = 820 ∧ Config.tRdInit = 12 ∧
  Config.tRdSample = 18 ∧ Config.tRdRec = 110 ∧ Config.tW0Low = 120 ∧ Config.tW0Rec = 20 ∧
  Config.tW1Low = 12 ∧ Config.tW1Rec = 128 ∧
  ∀ b : Bit, writeLowTicks b + (writeRecoveryTicks b).toNat = 140

/-- Every instruction, with every operand value its encoding admits, is read back from its own word. -/
def Obligations.DecodeOfEncodeIsIdentity : Prop :=
  ∀ i : Instr, decode (encode i) = .ok i

/-- 30_encoding.md R42, R43, R52, R46: the opcode map over all 4096 command words, operands included; argument bits a
command does not use select nothing, and the encoder writes them as 0. -/
def Obligations.CommandWordsDecodeByOpcode : Prop :=
  (∀ (i : Instr) (w : CommandWord), encode i = .command w → (∀ v, i ≠ .writeByte v) → argField w &&& 0xFE = 0 ∧
    ((∀ b, i ≠ .writeBit b) → argField w = 0)) ∧
  ∀ (op : BitVec 4) (arg : Byte),
    decode (.command (commandWord op arg)) =
      if op = 0x0 then .ok .init
      else if op = 0x1 then .ok .detectPresence
      else if op = 0x2 then .ok .getPresence
      else if op = 0x3 then .ok (.writeBit (arg.extractLsb' 0 1))
      else if op = 0x4 then .ok .readBit
      else if op = 0x5 then .ok (.writeByte arg)
      else if op = 0x6 then .ok .startReadByte
      else if op = 0x7 then .ok .isIdle
      else if op = 0x8 then .ok .getLastByte
      else .error (.reservedOpcode op)

/-- 30_encoding.md R47: the internal timer port. -/
def Obligations.TimerPortWordsDecodeByTop : Prop :=
  ∀ n : Ticks,
    decode (.timer (timerWord 0b00 n)) = .error .timerNoOperation ∧
    decode (.timer (timerWord 0b01 n)) = .ok .stop ∧
    decode (.timer (timerWord 0b10 n)) = .ok (.arm n) ∧
    decode (.timer (timerWord 0b11 n)) = .error .reservedTimerOperation

/-- 30_encoding.md R48, 60_exceptions.md R143: the encoding of `BS` is the opcode of the handler arm; code 7 is none. -/
def Obligations.HandlerArmIsChosenByBusStateCode : Prop :=
  (∀ b : BusState, decode (.handler b.code) = .ok (handlerArm b) ∧ BusState.ofCode b.code = some b) ∧
  decode (.handler 0) = .ok .expIdle ∧ decode (.handler 1) = .ok .expPdl ∧ decode (.handler 2) = .ok .expPs ∧
  decode (.handler 3) = .ok .expPr ∧ decode (.handler 4) = .ok .expW0r ∧ decode (.handler 5) = .ok .expW1r ∧
  decode (.handler 6) = .ok .expRr ∧ decode (.handler 7) = .error .noHandler

/-- The words of vector V21 (95_test_vectors.md), written out from 30_encoding.md R42 and R47; and the encodings of `DIR`
and `LAST` (10_state.md R14, R16). -/
def Obligations.SampleWordsDecode : Prop :=
  decode (.command 0x000) = .ok .init ∧ decode (.command 0x100) = .ok .detectPresence ∧
  decode (.command 0x301) = .ok (.writeBit 1) ∧ decode (.command 0x3FE) = .ok (.writeBit 0) ∧
  decode (.command 0x5CC) = .ok (.writeByte 0xCC) ∧ decode (.command 0x7AB) = .ok .isIdle ∧
  decode (.timer 0x10000) = .ok .stop ∧ decode (.timer 0x203C0) = .ok (.arm 960) ∧
  decode (.handler 0b110) = .ok .expRr ∧ decode (.command 0xF00) = .error (.reservedOpcode 0xF) ∧
  Direction.write.code = 0 ∧ Direction.read.code = 1 ∧ LastSample.bit0.code = 0 ∧ LastSample.bit1.code = 1 ∧
  LastSample.presenceOk.code = 2 ∧ LastSample.presenceNotOk.code = 3 ∧ LastSample.notReady.code = 4

/-! ## A step -/

/-- When a command word stands next on the command port and decodes to `i`, the step is `exec i`, on the state whose
input was taken and whose last response was withdrawn; unless the run refuses breaches and this is one (log 9). -/
def Obligations.StepRunsDecodedCommand : Prop :=
  ∀ (s : State) (w : CommandWord) (rest : List Input) (i : Instr),
    s.inbox = .command w :: rest → decode (.command w) = .ok i →
    (s.contract = true → breaksIdleDuty i s = false) →
    step s = exec i { s with inbox := rest, rsp := none, ret := none }

/-- 60_exceptions.md R142: with an event pending, the EXPIRE step is `exec` of the arm that the code of `BS` decodes
to, whether the schedule lists it or the block moves by itself. Without one EXPIRE is not enabled; that a listed one then
passes without effect is the model's choice (log 5). -/
def Obligations.StepRunsHandlerArmOfBusState : Prop :=
  ∀ (s : State) (i : Instr), decode (.handler s.block.bs.code) = .ok i →
    (s.block.pend = true → s.inbox = [] → step s = exec i { s with rsp := none, ret := none }) ∧
    (∀ rest, s.inbox = .expire :: rest →
      step s = if s.block.pend then exec i { s with inbox := rest, rsp := none, ret := none }
        else .next { s with inbox := rest, rsp := none, ret := none })

/-- A word on the internal timer port runs the operation it decodes to; `top` = 0b00 is no operation, 0b11 is refused
(30_encoding.md R47; log 10). -/
def Obligations.StepRunsTimerPortWord : Prop :=
  ∀ (s : State) (t : TimerWord) (rest : List Input), s.inbox = .timerPort t :: rest →
    (∀ i, decode (.timer t) = .ok i → step s = exec i { s with inbox := rest, rsp := none, ret := none }) ∧
    (decode (.timer t) = .error .timerNoOperation →
      step s = .next { s with inbox := rest, rsp := none, ret := none }) ∧
    (decode (.timer t) = .error .reservedTimerOperation → step s = .refused .reservedTimerOperation)

/-- 40_timer.md R62: one rising edge of `clk`, listed or, with no event pending, taken by the block itself (that the
block ticks when nothing is listed is the model's choice, log 4). -/
def Obligations.TickCountsAndFires : Prop :=
  ∀ (s : State) (rest : List Input),
    (s.inbox = .tick :: rest ∨ (s.inbox = [] ∧ rest = [] ∧ s.block.pend = false)) →
    step s = .next
      { s with
        inbox := rest, rsp := none, ret := none, now := s.now + 1
        block :=
          if s.block.run = false then s.block
          else if s.block.cnt + 1 = s.block.cmp then
            { s.block with cnt := s.block.cnt + 1, run := false, pend := true }
          else { s.block with cnt := s.block.cnt + 1 } }

/-- 70_reset_and_hazards.md R160, whose values the spec decides itself (D11; log 1: R162 and U6 admit unspecified registers
until INIT): what `rst` leaves, at power-on and at any later time, the host and the trace as they were (log 18). No move
that arms no timer, and no number of ticks, then changes a register or brings a completion event. -/
def Obligations.ResetSetsTheTenRegisters : Prop :=
  (State.reset.block.bs = .idle ∧ State.reset.block.val = 0x00 ∧ State.reset.block.rem = 0 ∧
    State.reset.block.dir = .write ∧ State.reset.block.last = .notReady ∧ State.reset.block.owdrv = false ∧
    State.reset.block.cnt = 0 ∧ State.reset.block.cmp = 0 ∧ State.reset.block.run = false ∧
    State.reset.block.pend = false) ∧
  (∀ (s : State) (rest : List Input), s.inbox = .reset :: rest →
    step s = .next { s with block := State.reset.block, inbox := rest, rsp := none, ret := none }) ∧
  (∀ (s : State) (rest : List Input), s.inbox = .reset :: rest → rest.all Input.armsNothing = true →
    ∀ k, ∃ u, steps (k + 1) s = .next u ∧ u.block = State.reset.block)

/-- 30_encoding.md R45: a reserved opcode is invalid to the decoder; the block does nothing and answers 0x00; a run
that refuses breaches refuses it (log 9). -/
def Obligations.ReservedOpcodeChangesNothing : Prop :=
  ∀ (op : BitVec 4) (arg : Byte), 0x9 ≤ op.toNat →
    decode (.command (commandWord op arg)) = .error (.reservedOpcode op) ∧
    ∀ (s : State) (rest : List Input), s.inbox = .command (commandWord op arg) :: rest →
      (s.contract = false → step s = .next { s with inbox := rest, rsp := some 0x00, ret := none }) ∧
      (s.contract = true → step s = .refused (.reservedOpcode (commandWord op arg)))

/-- 93_implementation_defined.md U2: a run that refuses breaches refuses an initiating command outside `Idle`
(70_reset_and_hazards.md R163); the five initiating commands are these. -/
def Obligations.InitiatingOutsideIdleIsABreach : Prop :=
  (∀ i : Instr, initiates i = true ↔
    i = .detectPresence ∨ (∃ b, i = .writeBit b) ∨ i = .readBit ∨ (∃ v, i = .writeByte v) ∨ i = .startReadByte) ∧
  (∀ (s : State) (w : CommandWord) (rest : List Input) (i : Instr), s.inbox = .command w :: rest →
    decode (.command w) = .ok i → s.contract = true → initiates i = true → s.block.bs ≠ .idle →
    step s = .refused .initiatedWhileBusy)

/-- 60_exceptions.md R140, R173: no command, no handler arm, no tick, no reset and no call of the host's sequencer
stops the machine, whatever the state. -/
def Obligations.NoMoveOfAnAgentStops : Prop :=
  ∀ s : State, s.transportOnly = true → s.contract = false → ∃ t, step s = .next t

/-! ## The timer -/

/-- 40_timer.md R60, with n >= 1 as R65 requires (n = 0 is `ArmZeroIsRefused`). That a fired event that waits for its
handler is dropped is "this spec's choice" (D7; U5 names the alternative; log 15). -/
def Obligations.ArmResult : Prop :=
  ∀ (n : Ticks) (s : State), n ≠ 0 →
    decode (.timer (timerWord 0b10 n)) = .ok (.arm n) ∧
    exec (.arm n) s = .next
      { s with
        block := { s.block with cnt := 0, cmp := n, run := true, pend := false }
        trace := s.trace ++ [.arm n] }

/-- 40_timer.md R65: "A model refuses `ARM 0`", and no duration the transport arms with is 0. -/
def Obligations.ArmZeroIsRefused : Prop :=
  (∀ s : State, exec (.arm 0) s = .refused .armZero) ∧
  (∀ n ∈ [Config.tPresLow, Config.tPresSample, Config.tPresRec, Config.tRdRec, Config.tW0Rec, Config.tW1Rec],
    ticks n ≠ 0 ∧ (ticks n).toNat = n ∧ 20 ≤ n ∧ n ≤ 960)

/-- 40_timer.md R61, any number of later ticks included. That a fired event that waits for its handler is dropped is the
spec's own choice (D7; U5 names the alternative; log 15). -/
def Obligations.StopResult : Prop :=
  (∀ n : Ticks, decode (.timer (timerWord 0b01 n)) = .ok .stop) ∧
  ∀ s : State, ∃ t, exec .stop s = .next t ∧
    t = { s with block := { s.block with run := false, pend := false }, trace := s.trace ++ [.stop] } ∧
    ∀ k, (tickN k t).block = t.block

/-- 40_timer.md R62, R63: after `ARM n` the event fires on the n-th tick, not before and not after, and once. -/
def Obligations.ArmedTimerFiresOnceOnTheNthTick : Prop :=
  ∀ (n : Ticks) (s : State), n ≠ 0 → ∃ t, exec (.arm n) s = .next t ∧
    ∀ k : Nat,
      (k < n.toNat → (tickN k t).block =
        { s.block with cnt := BitVec.ofNat 16 k, cmp := n, run := true, pend := false }) ∧
      (n.toNat ≤ k → (tickN k t).block = { s.block with cnt := n, cmp := n, run := false, pend := true })

/-- 43_bit_ops.md R92: a busy-wait is n applications of the timer's tick; beside the timer it shows only in the trace
and in elapsed time. -/
def Obligations.BusyWaitIsNTicks : Prop :=
  ∀ (n : Nat) (s : State), ∃ c r p,
    busyWait n s =
      { s with block := { s.block with cnt := c, run := r, pend := p }, now := s.now + n, trace := s.trace ++ [.bw n] } ∧
    (busyWait n s).block = Nat.repeat Block.tick n s.block

/-! ## Control and status -/

/-- 41_transport_control.md R70; with property 1 of the source (afterwards IS_IDLE is true and GET_PRESENCE answers
`NotOk`), and "`INIT` twice is the same as once".
That a waiting event is dropped (D7; log 15), and the values 0, 0 and `Write` of "clear" (D14; log 29), are the spec's own
choices. -/
def Obligations.InitResult : Prop :=
  (∀ arg : Byte, decode (.command (commandWord 0x0 arg)) = .ok .init) ∧
  ∀ s : State, ∃ t, exec .init s = .next t ∧
    t = { s with
          block := { s.block with bs := .idle, val := 0x00, rem := 0, dir := .write, last := .notReady,
                                  owdrv := false, run := false, pend := false }
          rsp := some 0x00
          trace := s.trace ++ [.stop, .rl] } ∧
    (∃ u, exec .isIdle t = .next u ∧ u.rsp = some 0x01 ∧ u.block = t.block) ∧
    (∃ u, exec .getPresence t = .next u ∧ u.rsp = some 0x00 ∧ u.block = t.block) ∧
    (∃ u, exec .init t = .next u ∧ u.block = t.block)

/-- 41_transport_control.md R71. -/
def Obligations.IsIdleResult : Prop :=
  (∀ arg : Byte, decode (.command (commandWord 0x7 arg)) = .ok .isIdle) ∧
  ∀ s : State, exec .isIdle s = .next { s with rsp := some (if s.block.bs = .idle then 0x01 else 0x00) }

/-- 41_transport_control.md R72, at the default of PRESENCE_OK_ALIASES_BIT0 and, for the answer, at either value of
it; the read consumes, so a second one answers `NotOk`. The default false, by which `Bit0` answers `NotOk`, is the spec's own
choice (D12, U3; log 14). -/
def Obligations.GetPresenceResult : Prop :=
  (∀ arg : Byte, decode (.command (commandWord 0x2 arg)) = .ok .getPresence) ∧
  (∀ s : State, exec .getPresence s = .next
    { s with
      block := { s.block with last := .notReady }
      rsp := some (if s.block.last = .presenceOk then 0x01 else 0x00) }) ∧
  (∀ s : State, ∃ t u, exec .getPresence s = .next t ∧ exec .getPresence t = .next u ∧ u.rsp = some 0x00 ∧
    u.block = t.block) ∧
  ∀ (aliases : Bool) (m : LastSample),
    presenceAnswer aliases m = true ↔ m = .presenceOk ∨ (aliases = true ∧ m = .bit0)

/-- 41_transport_control.md R73. -/
def Obligations.GetLastByteResult : Prop :=
  (∀ arg : Byte, decode (.command (commandWord 0x8 arg)) = .ok .getLastByte) ∧
  ∀ s : State, exec .getLastByte s = .next { s with rsp := some s.block.val }

/-- 60_exceptions.md R144: nothing beyond `PEND <- 0` and the trace of the handler's start. -/
def Obligations.ExpIdleResult : Prop :=
  decode (.handler 0) = .ok .expIdle ∧
  ∀ s : State, exec .expIdle s = .next
    { s with block := { s.block with pend := false }, trace := s.trace ++ [.exp] }

/-! ## Bus reset and presence detect -/

/-- 42_presence.md R80. -/
def Obligations.DetectPresenceResult : Prop :=
  (∀ arg : Byte, decode (.command (commandWord 0x1 arg)) = .ok .detectPresence) ∧
  ∀ s : State, exec .detectPresence s = .next
    { s with
      block := { s.block with bs := .presenceDriveLow, owdrv := true, cnt := 0, cmp := 960, run := true, pend := false }
      rsp := some 0x00
      trace := s.trace ++ [.dl, .stop, .arm 960] }

/-- 42_presence.md R81, behind the entry of 60_exceptions.md R142. -/
def Obligations.ExpPdlResult : Prop :=
  decode (.handler 1) = .ok .expPdl ∧
  ∀ s : State, exec .expPdl s = .next
    { s with
      block := { s.block with bs := .presenceSample, owdrv := false, cnt := 0, cmp := ticks Config.tPresSample,
                              run := true, pend := false }
      trace := s.trace ++ [.exp, .rl, .stop, .arm (ticks Config.tPresSample)] }

/-- 42_presence.md R82, behind the entry of R142; the line is released, as it is wherever the block samples (R151). -/
def Obligations.ExpPsResult : Prop :=
  decode (.handler 2) = .ok .expPs ∧
  ∀ s : State, s.block.owdrv = false → ∃ b l d, s.answers false b l d ∧ exec .expPs s = .next
    { s with
      block := { s.block with bs := .presenceRecovery, last := if b = 0 then .presenceOk else .presenceNotOk,
                              cnt := 0, cmp := 820, run := true, pend := false }
      line := l
      draws := d
      trace := s.trace ++ [.exp, .sm b, .stop, .arm 820] }

/-- 60_exceptions.md R151, U7: a sample taken while the block drives low would read 0. The spec has it from general
knowledge (D20; log 7); no state that a run reaches samples so. -/
def Obligations.SampleWhileDrivingReadsLow : Prop :=
  ∀ s : State, s.block.owdrv = true → exec .expPs s = .next
    { s with
      block := { s.block with bs := .presenceRecovery, last := .presenceOk, cnt := 0, cmp := 820, run := true,
                              pend := false }
      trace := s.trace ++ [.exp, .sm 0, .stop, .arm 820] }

/-- 42_presence.md R83, behind the entry of R142. -/
def Obligations.ExpPrResult : Prop :=
  decode (.handler 3) = .ok .expPr ∧
  ∀ s : State, exec .expPr s = .next
    { s with block := { s.block with bs := .idle, pend := false }, trace := s.trace ++ [.exp] }

/-- 42_presence.md R84: the sequence as a whole, run by the block alone (log 4), which handles each event before a
further tick: three handler runs, the ticks of the three
phases, one sample, and for good only `LAST` (and the timer's registers) changed. -/
def Obligations.PresenceSequenceRunsToIdle : Prop :=
  ∀ (s : State) (b : Bit) (l : List Bit) (d : Nat), s.inbox = [] → s.block.bs = .idle → s.answers false b l d →
    ∃ t, exec .detectPresence s = .next t ∧
      steps (Config.tPresLow + 1 + Config.tPresSample + 1 + Config.tPresRec + 1) t = .next
        { s with
          block := { s.block with last := presenceMailbox b, owdrv := false, cnt := ticks Config.tPresRec,
                                  cmp := ticks Config.tPresRec, run := false, pend := false }
          rsp := none, ret := none, line := l, draws := d
          now := s.now + (Config.tPresLow + Config.tPresSample + Config.tPresRec)
          trace := s.trace ++
            [.dl, .stop, .arm (ticks Config.tPresLow), .exp, .rl, .stop, .arm (ticks Config.tPresSample), .exp, .sm b,
             .stop, .arm (ticks Config.tPresRec), .exp] }

/-! ## Bit slots -/

/-- 43_bit_ops.md R90. -/
def Obligations.WriteBitResult : Prop :=
  (∀ arg : Byte, decode (.command (commandWord 0x3 arg)) = .ok (.writeBit (arg.extractLsb' 0 1))) ∧
  ∀ (b : Bit) (s : State), exec (.writeBit b) s = .next
    { s with
      block := { s.block with bs := if b = 1 then .write1Recovery else .write0Recovery, owdrv := false, cnt := 0,
                              cmp := if b = 1 then 128 else 20, run := true, pend := false }
      rsp := some 0x00
      now := s.now + (if b = 1 then 12 else 120)
      trace := s.trace ++
        [.dl, .bw (if b = 1 then 12 else 120), .rl, .stop, .arm (if b = 1 then 128 else 20)] }

/-- 43_bit_ops.md R91. -/
def Obligations.ReadBitResult : Prop :=
  (∀ arg : Byte, decode (.command (commandWord 0x4 arg)) = .ok .readBit) ∧
  ∀ s : State, ∃ b l d, s.answers false b l d ∧ exec .readBit s = .next
    { s with
      block := { s.block with bs := .readRecovery, last := if b = 1 then .bit1 else .bit0, owdrv := false, cnt := 0,
                              cmp := 110, run := true, pend := false }
      rsp := some (b.setWidth 8)
      line := l
      draws := d
      now := s.now + 30
      trace := s.trace ++ [.dl, .bw 12, .rl, .bw 18, .sm b, .stop, .arm 110] }

/-- 43_bit_ops.md R93: a standalone bit, run by the block alone (log 4), is in `Idle` after the ticks of its recovery and
one handler run, the timer halted on its target; a read of 1 sets bit 7 of `VAL`, a read of 0 leaves it. -/
def Obligations.StandaloneBitEndsAfterOneHandlerRun : Prop :=
  (∀ (s : State) (b : Bit), s.inbox = [] → s.block.rem = 0 → ∃ t, exec (.writeBit b) s = .next t ∧
    steps ((writeRecoveryTicks b).toNat + 1) t = .next
      { s with
        block := { s.block with bs := .idle, owdrv := false, cnt := if b = 1 then 128 else 20,
                                cmp := if b = 1 then 128 else 20, run := false, pend := false }
        rsp := none, ret := none
        now := s.now + 140
        trace := s.trace ++ writeSlotTrace b ++ [.exp] }) ∧
  (∀ s : State, s.inbox = [] → s.block.rem = 0 → ∃ b l d t, s.answers false b l d ∧ exec .readBit s = .next t ∧
    steps (Config.tRdRec + 1) t = .next
      { s with
        block := { s.block with bs := .idle, last := .notReady, owdrv := false, cnt := 110, cmp := 110,
                                run := false, pend := false,
                                val := if b = 1 then s.block.val ||| 0x80 else s.block.val }
        rsp := none, ret := none, line := l, draws := d
        now := s.now + 140
        trace := s.trace ++ readSlotTrace b ++ [.exp] })

/-! ## Byte transfer -/

/-- 44_byte_ops.md R100. -/
def Obligations.WriteByteResult : Prop :=
  (∀ v : Byte, decode (.command (commandWord 0x5 v)) = .ok (.writeByte v)) ∧
  ∀ (v : Byte) (s : State), exec (.writeByte v) s = .next
    { s with
      block := { s.block with bs := if v.extractLsb' 0 1 = 1 then .write1Recovery else .write0Recovery, val := v,
                              rem := 7, dir := .write, owdrv := false, cnt := 0,
                              cmp := if v.extractLsb' 0 1 = 1 then 128 else 20, run := true, pend := false }
      rsp := some 0x00
      now := s.now + writeLowTicks (v.extractLsb' 0 1)
      trace := s.trace ++ writeSlotTrace (v.extractLsb' 0 1) }

/-- 44_byte_ops.md R101. -/
def Obligations.StartReadByteResult : Prop :=
  (∀ arg : Byte, decode (.command (commandWord 0x6 arg)) = .ok .startReadByte) ∧
  ∀ s : State, ∃ b l d, s.answers false b l d ∧ exec .startReadByte s = .next
    { s with
      block := { s.block with bs := .readRecovery, val := 0x00, rem := 7, dir := .read,
                              last := if b = 1 then .bit1 else .bit0, owdrv := false, cnt := 0, cmp := 110,
                              run := true, pend := false }
      rsp := some 0x00
      line := l
      draws := d
      now := s.now + 30
      trace := s.trace ++ readSlotTrace b }

/-- 44_byte_ops.md R102, behind the entry of R142: one action for both write recoveries. -/
def Obligations.WriteRecoveryResult : Prop :=
  decode (.handler 4) = .ok .expW0r ∧ decode (.handler 5) = .ok .expW1r ∧
  ∀ (s : State) (i : Instr), i = .expW0r ∨ i = .expW1r →
    (s.block.rem = 0 → exec i s = .next
      { s with block := { s.block with bs := .idle, pend := false }, trace := s.trace ++ [.exp] }) ∧
    (s.block.rem ≠ 0 → exec i s = .next
      { s with
        block := { s.block with bs := if s.block.val.extractLsb' 1 1 = 1 then .write1Recovery else .write0Recovery,
                                val := s.block.val >>> 1, rem := s.block.rem - 1, owdrv := false, cnt := 0,
                                cmp := if s.block.val.extractLsb' 1 1 = 1 then 128 else 20,
                                run := true, pend := false }
        now := s.now + writeLowTicks (s.block.val.extractLsb' 1 1)
        trace := s.trace ++ [.exp] ++ writeSlotTrace (s.block.val.extractLsb' 1 1) })

/-- 44_byte_ops.md R103, behind the entry of R142. -/
def Obligations.ReadRecoveryResult : Prop :=
  decode (.handler 6) = .ok .expRr ∧
  ∀ s : State,
    (s.block.rem = 0 → exec .expRr s = .next
      { s with
        block := { s.block with bs := .idle, last := .notReady, pend := false,
                                val := if s.block.last = .bit1 then s.block.val ||| 0x80 else s.block.val }
        trace := s.trace ++ [.exp] }) ∧
    (s.block.rem ≠ 0 → ∃ b l d, s.answers false b l d ∧ exec .expRr s = .next
      { s with
        block := { s.block with bs := .readRecovery, last := if b = 1 then .bit1 else .bit0,
                                val := (if s.block.last = .bit1 then s.block.val ||| 0x80 else s.block.val) >>> 1,
                                rem := s.block.rem - 1, owdrv := false, cnt := 0, cmp := 110, run := true,
                                pend := false }
        line := l
        draws := d
        now := s.now + 30
        trace := s.trace ++ [.exp] ++ readSlotTrace b })

/-- 44_byte_ops.md R104, R105: a byte written, run by the block alone (log 4): eight slots, least significant bit first, each
in the handler run that ends the one before; 1120 ticks from the command to `Idle`; `VAL` ends as v shifted by seven. -/
def Obligations.WriteByteSendsEightBitsLsbFirst : Prop :=
  ∀ (s : State) (v : Byte), s.inbox = [] → ∃ t k u, exec (.writeByte v) s = .next t ∧ steps k t = .next u ∧
    u.block.bs = .idle ∧ u.block.val = v >>> 7 ∧ u.block.rem = 0 ∧ u.block.dir = .write ∧
    u.block.last = s.block.last ∧ u.block.owdrv = false ∧ u.block.run = false ∧ u.block.pend = false ∧
    u.now = s.now + 1120 ∧ u.line = s.line ∧ u.draws = s.draws ∧
    u.trace = s.trace ++ (busBits v).flatMap fun b => writeSlotTrace b ++ [.exp]

/-- 44_byte_ops.md R104, R105: a byte read, run by the block alone (log 4): the eight samples taken, first to last, are
bits 0 to 7 of `VAL`, whatever came before, the levels listed or free (log 6); 1120 ticks from the command to `Idle`. -/
def Obligations.ReadByteCollectsEightSamplesLsbFirst : Prop :=
  ∀ s : State, s.inbox = [] → ∃ v t k u, levels 8 s.line s.draws = busBits v ∧
      exec .startReadByte s = .next t ∧ steps k t = .next u ∧
      u.block.bs = .idle ∧ u.block.val = v ∧ u.block.rem = 0 ∧ u.block.dir = .read ∧
      u.block.last = .notReady ∧ u.block.owdrv = false ∧ u.block.run = false ∧ u.block.pend = false ∧
      u.now = s.now + 1120 ∧ u.line = s.line.drop 8 ∧ u.draws = s.draws + (8 - s.line.length) ∧
      u.trace = s.trace ++ (busBits v).flatMap fun b => readSlotTrace b ++ [.exp]

/-! ## Frames -/

/-- 10_state.md R12 to R14: `VAL`, `REM` and `DIR` are written by the byte operations and INIT alone; a write recovery
writes `VAL` and `REM` only while bits remain, and never `DIR`. -/
def Obligations.PendingShiftFrame : Prop :=
  (∀ (i : Instr) (s t : State), exec i s = .next t →
    i = .detectPresence ∨ i = .getPresence ∨ (∃ b, i = .writeBit b) ∨ i = .readBit ∨ i = .isIdle ∨ i = .getLastByte ∨
      (∃ n, i = .arm n) ∨ i = .stop ∨ i = .expIdle ∨ i = .expPdl ∨ i = .expPs ∨ i = .expPr →
    t.block.val = s.block.val ∧ t.block.rem = s.block.rem ∧ t.block.dir = s.block.dir) ∧
  (∀ (i : Instr) (s t : State), exec i s = .next t → i = .expW0r ∨ i = .expW1r ∨ i = .expRr →
    t.block.dir = s.block.dir ∧ (s.block.rem = 0 → t.block.rem = 0 ∧ (i ≠ .expRr → t.block.val = s.block.val)))

/-- 10_state.md R16: the mailbox is written only by INIT, GET_PRESENCE, the read slots and the two sampling or
consuming arms. -/
def Obligations.MailboxFrame : Prop :=
  ∀ (i : Instr) (s t : State), exec i s = .next t →
    i = .detectPresence ∨ (∃ b, i = .writeBit b) ∨ (∃ v, i = .writeByte v) ∨ i = .isIdle ∨ i = .getLastByte ∨
      (∃ n, i = .arm n) ∨ i = .stop ∨ i = .expIdle ∨ i = .expPdl ∨ i = .expPr ∨ i = .expW0r ∨ i = .expW1r →
    t.block.last = s.block.last

/-- 10_state.md R17 to R21: the line driver and the timer under the operations that use neither or one of them. -/
def Obligations.LineDriverAndTimerFrame : Prop :=
  (∀ (i : Instr) (s t : State), exec i s = .next t → i = .isIdle ∨ i = .getPresence ∨ i = .getLastByte →
    t.block.owdrv = s.block.owdrv ∧ t.block.cnt = s.block.cnt ∧ t.block.cmp = s.block.cmp ∧
      t.block.run = s.block.run ∧ t.block.pend = s.block.pend ∧ t.block.bs = s.block.bs ∧ t.trace = s.trace) ∧
  (∀ (i : Instr) (s t : State), exec i s = .next t → i = .init ∨ i = .stop ∨ i = .expIdle ∨ i = .expPr →
    t.block.cnt = s.block.cnt ∧ t.block.cmp = s.block.cmp ∧ (i ≠ .init → t.block.owdrv = s.block.owdrv)) ∧
  (∀ (i : Instr) (s t : State), exec i s = .next t → (∃ n, i = .arm n) ∨ i = .stop ∨ i = .expIdle →
    t.block.bs = s.block.bs ∧ t.block.owdrv = s.block.owdrv) ∧
  (∀ (s t : State), exec .expPs s = .next t → t.block.owdrv = s.block.owdrv) ∧
  (∀ (i : Instr) (s t : State), exec i s = .next t → s.block.rem = 0 → i = .expW0r ∨ i = .expW1r ∨ i = .expRr →
    t.block.owdrv = s.block.owdrv ∧ t.block.cnt = s.block.cnt ∧ t.block.cmp = s.block.cmp ∧
      t.block.run = s.block.run)

/-- The model's own fields and the host (log 3): no instruction touches the host, the inputs to come or the run's `contract`; only the sampling ones consume an
answer of the environment, only those with a busy-wait take time, only commands respond, and the trace only grows. -/
def Obligations.OutsideTheBlockFrame : Prop :=
  ∀ (i : Instr) (s t : State), exec i s = .next t →
    t.seq = s.seq ∧ t.ret = s.ret ∧ t.inbox = s.inbox ∧ t.contract = s.contract ∧ (∃ d, t.trace = s.trace ++ d) ∧
    (i ≠ .readBit → i ≠ .startReadByte → i ≠ .expPs → i ≠ .expRr → t.line = s.line ∧ t.draws = s.draws) ∧
    ((∀ b, i ≠ .writeBit b) → i ≠ .readBit → (∀ v, i ≠ .writeByte v) → i ≠ .startReadByte →
      i ≠ .expW0r → i ≠ .expW1r → i ≠ .expRr → t.now = s.now) ∧
    ((∃ w, encode i = .command w) → t.rsp.isSome = true) ∧ ((∀ w, encode i ≠ .command w) → t.rsp = s.rsp)

/-- 10_state.md R14: no rule of the block reads `DIR`. -/
def Obligations.DirectionIsNeverRead : Prop :=
  ∀ (i : Instr) (s : State) (d : Direction),
    (exec i { s with block := { s.block with dir := d } } = exec i s) ∨
    (∃ t, exec i s = .next t ∧ t.block.dir = s.block.dir ∧
      exec i { s with block := { s.block with dir := d } } =
        .next { t with block := { t.block with dir := d } })

/-- 10_state.md R11: the transition graph of `BS`; the write slots by the bit they send. -/
def Obligations.BusStateTransitions : Prop :=
  ∀ (i : Instr) (s t : State), exec i s = .next t →
    (i = .init ∨ i = .expPr → t.block.bs = .idle) ∧
    (i = .detectPresence → t.block.bs = .presenceDriveLow) ∧
    (i = .expPdl → t.block.bs = .presenceSample) ∧
    (i = .expPs → t.block.bs = .presenceRecovery) ∧
    (∀ b, i = .writeBit b → (b = 0 → t.block.bs = .write0Recovery) ∧ (b = 1 → t.block.bs = .write1Recovery)) ∧
    (∀ v, i = .writeByte v → (v.extractLsb' 0 1 = 0 → t.block.bs = .write0Recovery) ∧
      (v.extractLsb' 0 1 = 1 → t.block.bs = .write1Recovery)) ∧
    (i = .readBit ∨ i = .startReadByte → t.block.bs = .readRecovery) ∧
    (i = .expW0r ∨ i = .expW1r → (s.block.rem = 0 → t.block.bs = .idle) ∧
      (s.block.rem ≠ 0 → (s.block.val.extractLsb' 1 1 = 0 → t.block.bs = .write0Recovery) ∧
        (s.block.val.extractLsb' 1 1 = 1 → t.block.bs = .write1Recovery))) ∧
    (i = .expRr → (s.block.rem = 0 → t.block.bs = .idle) ∧ (s.block.rem ≠ 0 → t.block.bs = .readRecovery)) ∧
    (i = .isIdle ∨ i = .getPresence ∨ i = .getLastByte ∨ i = .expIdle ∨ (∃ n, i = .arm n) ∨ i = .stop →
      t.block.bs = s.block.bs)

/-! ## Invariants of every run -/

/-- The invariants of 10_state.md R23 hold after reset, whether or not the run refuses breaches. It rests on the reset
values, which the spec decides itself (D11; log 1: R162 and U6 admit unspecified registers until INIT), and on an empty list
of inputs (log 2). -/
def Obligations.ResetMeetsTheInvariants : Prop :=
  State.reset.block.AnyHostInv ∧ State.reset.block.DutifulInv ∧ State.reset.transportOnly = true

/-- 10_state.md R23, last sentences; 90_conflicts.md C10: under any host, every step keeps all of R23 but `REM == 0` in
`Idle`. -/
def Obligations.StepKeepsInvariantUnderAnyHost : Prop :=
  ∀ s t : State, s.block.AnyHostInv → s.transportOnly = true → step s = .next t →
    t.block.AnyHostInv ∧ t.transportOnly = true

/-- 10_state.md R23: under a host that initiates only in `Idle` (a run that refuses breaches), every step keeps R23
whole. -/
def Obligations.StepKeepsInvariantUnderDutifulHost : Prop :=
  ∀ s t : State, s.block.DutifulInv → s.transportOnly = true → s.contract = true → step s = .next t →
    t.block.DutifulInv ∧ t.transportOnly = true ∧ t.contract = true

/-- 70_reset_and_hazards.md R173, 60_exceptions.md R144: under the invariant the block is quiescent exactly in `Idle`,
and no event is pending in `Idle`; "A quiescent block stays as it is for ever until the next command" (with nothing listed, log 4). -/
def Obligations.QuiescentExactlyInIdleAndForGood : Prop :=
  (∀ k : Block, k.AnyHostInv → (k.quiescent = true ↔ k.bs = .idle) ∧ (k.pend = true → k.bs ≠ .idle)) ∧
  (∀ (s : State) (k : Nat), s.inbox = [] → s.block.quiescent = true →
    ∃ u, steps k s = .next u ∧ u.block = s.block ∧ u.trace = s.trace ∧ u.line = s.line)

/-- 70_reset_and_hazards.md R171, R173: left alone (log 4), every outstanding operation reaches `Idle`, whatever the bus does,
after at most three handler runs for a presence sequence and `REM + 1` for a bit or byte. -/
def Obligations.EveryOperationReachesIdle : Prop :=
  ∀ s : State, s.block.AnyHostInv → s.inbox = [] →
    ∃ k u d, steps k s = .next u ∧ u.block.bs = .idle ∧ u.trace = s.trace ++ d ∧
      d.count .exp ≤ (if s.block.bs.noByte then 3 else s.block.rem.toNat + 1)

/-! ## The host the spec describes -/

/-- 48_host_sequencer.md R120, R131: a call of the sequencer's task, in any state, initiates only in `Idle`: also in a
run that refuses breaches it answers a next state. -/
def Obligations.SequencerNeverBreaksTheIdleDuty : Prop :=
  ∀ (s : State) (rest : List Input), s.inbox = .schedulerTick :: rest ∨ (∃ c, s.inbox = .api c :: rest) →
    ∃ t, step s = .next t ∧ t.inbox = rest ∧ t.contract = s.contract

/-- 48_host_sequencer.md R120, R128: with the transport busy a call of the task changes nothing; row `ErrorFound` does
not wait for it, issues no command and changes no flag; `SkipAddressing` with no flag set has no row and stays. -/
def Obligations.SequencerWaitsForIdle : Prop :=
  (∀ s : State, s.block.bs ≠ .idle → s.seq.state ≠ .errorFound → seqTask s = .next { s with rsp := some 0x00 }) ∧
  (∀ s : State, s.seq.state = .errorFound → seqTask s = .next { s with seq := { s.seq with state := .idle } }) ∧
  (∀ s : State, s.block.bs = .idle → s.seq.timeoutExpired = false → s.seq.state = .skipAddressing →
    s.seq.configuring = false → s.seq.acquiring = false → s.seq.conversionFinished = false →
    seqTask s = .next { s with rsp := some 0x01 })

/-- 48_host_sequencer.md R115: `Initialize()` performs `INIT` and leaves `Seq.Idle` with all flags clear. R129, property 8
of the source: every scheduler tick counts against the acquisition under way, before its task call; once the bound of ticks
has passed without `temperatureReady`, the timeout has expired or `ErrorFound` was reached, the temperature as it was; and
the task call that finds the transport idle takes an expired timeout to `ErrorFound` (from there `SequencerWaitsForIdle`).
The bound is free; what is counted, when the timeout is serviced, and that `Initialize()` keeps the temperature, are the
model's choice (log 22, log 25). A state of the configuration chain with `configuring` clear, which no run reaches, is left
out of the last clause. -/
def Obligations.SequencerInitializeAndTimeout : Prop :=
  (∀ (s : State) (rest : List Input), s.inbox = .api .seqInit :: rest → ∃ q : Sequencer,
    step s = andThen (exec .init { s with inbox := rest, rsp := none, ret := none })
      (fun t => .next { t with seq := q }) ∧
    q.state = .idle ∧ q.configuring = false ∧ q.acquiring = false ∧ q.conversionFinished = false ∧
    q.temperatureReady = false ∧ q.configured = false ∧ q.timeoutExpired = false ∧
    q.temperature = s.seq.temperature) ∧
  (∀ (s : State) (rest : List Input), s.inbox = .acquisitionTimeout :: rest → step s = .next
    { s with inbox := rest, rsp := none, ret := none, seq := { s.seq with timeoutExpired := true } }) ∧
  (∀ (s : State) (rest : List Input), s.inbox = .schedulerTick :: rest → step s = seqTask
    { s with
      inbox := rest, rsp := none, ret := none
      seq :=
        if s.seq.configuring = false ∧ (s.seq.acquiring = true ∨ s.seq.state ≠ .idle) then
          { s.seq with waited := s.seq.waited + 1,
                       timeoutExpired := s.seq.timeoutExpired || decide (Config.acqTimeoutTicks ≤ s.seq.waited + 1) }
        else s.seq }) ∧
  (∀ s : State, s.block.bs = .idle → s.seq.timeoutExpired = true → s.seq.state ≠ .errorFound →
    seqTask s = .next
      { s with
        rsp := some 0x01
        seq := if s.seq.configuring = false ∧ (s.seq.acquiring = true ∨ s.seq.state ≠ .idle) then
            { s.seq with timeoutExpired := false, state := .errorFound, detectOwed := false, waited := 0 }
          else { s.seq with timeoutExpired := false } }) ∧
  (∀ (l rest : List Input) (s u : State), s.inbox = l ++ rest → (∀ c, .api c ∉ l) →
    s.seq.configuring = false → s.seq.acquiring = true ∨ s.seq.state ≠ .idle →
    s.seq.state ∉ [.configurePre, .configureAlarmHigh, .configureAlarmLow, .configureResolution] →
    0 < l.count .schedulerTick → Config.acqTimeoutTicks ≤ s.seq.waited + l.count .schedulerTick →
    steps l.length s = .next u →
    ∃ j v, j ≤ l.length ∧ steps j s = .next v ∧ (v.seq.temperatureReady = true ∨
      v.seq.temperature = s.seq.temperature ∧ (v.seq.timeoutExpired = true ∨ v.seq.state = .errorFound)))

/-- 48_host_sequencer.md R121, R122: rows `Seq.Idle` and `DetectPresence`, with no timeout to service (log 22)
and no `DETECT_PRESENCE` owed (log 24). -/
def Obligations.SequencerPresenceRows : Prop :=
  ∀ s : State, s.block.bs = .idle → s.seq.timeoutExpired = false →
    (s.seq.state = .idle → s.seq.configuring = true ∨ s.seq.acquiring = true →
      seqTask s = andThen (exec .detectPresence { s with rsp := some 0x01 })
        fun t => .next { t with seq := { s.seq with state := .detectPresence } }) ∧
    (s.seq.state = .idle → s.seq.configuring = false → s.seq.acquiring = false →
      seqTask s = .next { s with rsp := some 0x01 }) ∧
    (s.seq.state = .detectPresence → s.seq.detectOwed = false → s.block.last = .presenceOk →
      seqTask s = andThen (exec (.writeByte Config.cmdSkip)
          { s with rsp := some 0x01, block := { s.block with last := .notReady } })
        fun t => .next { t with seq := { s.seq with state := .skipAddressing } }) ∧
    (s.seq.state = .detectPresence → s.seq.detectOwed = false → s.block.last ≠ .presenceOk →
      seqTask s = .next { s with rsp := some 0x00, block := { s.block with last := .notReady },
                                 seq := { s.seq with state := .errorFound } })

/-- 48_host_sequencer.md R123, R124: rows `SkipAddressing`, in the table's order, and the configuration chain, with no
timeout to service (log 22). -/
def Obligations.SequencerCommandRows : Prop :=
  ∀ (s : State) (v : Byte) (n : SeqState), s.block.bs = .idle → s.seq.timeoutExpired = false →
    (s.seq.state = .skipAddressing ∧ s.seq.configuring = true ∧ v = Config.cmdWriteScratchpad ∧ n = .configurePre) ∨
    (s.seq.state = .skipAddressing ∧ s.seq.configuring = false ∧ s.seq.acquiring = true ∧ v = Config.cmdConvert ∧
      n = .convertTemperature) ∨
    (s.seq.state = .skipAddressing ∧ s.seq.configuring = false ∧ s.seq.acquiring = false ∧
      s.seq.conversionFinished = true ∧ v = Config.cmdReadScratchpad ∧ n = .readScratchpadCmd) ∨
    (s.seq.state = .configurePre ∧ v = Config.cfgAlarmHigh ∧ n = .configureAlarmHigh) ∨
    (s.seq.state = .configureAlarmHigh ∧ v = Config.cfgAlarmLow ∧ n = .configureAlarmLow) ∨
    (s.seq.state = .configureAlarmLow ∧ v = Config.cfgResolution ∧ n = .configureResolution) →
    seqTask s = andThen (exec (.writeByte v) { s with rsp := some 0x01 })
      fun t => .next { t with seq := { s.seq with state := n } }

/-- 48_host_sequencer.md R124 (its last row), R125: the end of a configuration, and the conversion poll with the
`DETECT_PRESENCE` it leaves to a later call (90_conflicts.md C5; log 24). -/
def Obligations.SequencerConversionRows : Prop :=
  ∀ s : State, s.block.bs = .idle → s.seq.timeoutExpired = false →
    (s.seq.state = .configureResolution → seqTask s = .next
      { s with rsp := some 0x01, seq := { s.seq with configuring := false, configured := true, state := .idle } }) ∧
    (s.seq.state = .convertTemperature → ∃ b l d t, s.answers false b l d ∧
      exec .readBit { s with rsp := some 0x01 } = .next t ∧
      (b = 1 → seqTask s = .next
        { t with seq := { s.seq with acquiring := false, conversionFinished := true, state := .detectPresence,
                                     detectOwed := true } }) ∧
      (b = 0 → seqTask s = .next t)) ∧
    (s.seq.state = .detectPresence → s.seq.detectOwed = true →
      seqTask s = andThen (exec .detectPresence { s with rsp := some 0x01 })
        fun t => .next { t with seq := { s.seq with detectOwed := false } })

/-- 48_host_sequencer.md R126, R127: the scratchpad is read one byte a call; with the ninth the temperature is decoded
little-endian and becomes ready; no timeout is to be serviced (log 22). -/
def Obligations.SequencerReadRows : Prop :=
  ∀ s : State, s.block.bs = .idle → s.seq.timeoutExpired = false →
    (s.seq.state = .readScratchpadCmd →
      seqTask s = andThen (exec .startReadByte { s with rsp := some 0x01 })
        fun t => .next { t with seq := { s.seq with state := .acquiringScratchpad, stored := 0 } }) ∧
    (s.seq.state = .acquiringScratchpad → s.seq.stored < 8 →
      seqTask s = exec .startReadByte
        { s with rsp := some s.block.val
                 seq := { s.seq with scratchpad := s.seq.scratchpad.setIfInBounds s.seq.stored s.block.val,
                                     stored := s.seq.stored + 1 } }) ∧
    (s.seq.state = .acquiringScratchpad → s.seq.stored = 8 → ∃ t, seqTask s = .next t ∧ t.block = s.block ∧
      t.seq.state = .idle ∧ t.seq.temperatureReady = true ∧ t.seq.acquiring = false ∧ t.seq.stored = 9 ∧
      t.seq.scratchpad = s.seq.scratchpad.setIfInBounds 8 s.block.val ∧
      t.seq.temperature.toNat = s.seq.scratchpad[0].toNat + 256 * s.seq.scratchpad[1].toNat)

/-- 48_host_sequencer.md R116: `Configure()` is a no-op if already configured or already in progress. -/
def Obligations.ConfigureIsIdempotent : Prop :=
  ∀ (s : State) (rest : List Input), s.inbox = .api .configure :: rest → ∃ t, step s = .next t ∧ t.block = s.block ∧
    (s.seq.configured = true ∨ s.seq.configuring = true → t.seq = s.seq) ∧
    (s.seq.configured = false → s.seq.configuring = false → t.seq = { s.seq with configuring := true })

/-- 48_host_sequencer.md R117, property 6 of the source; that "in progress" means `configuring`, `acquiring` or a state
other than `Seq.Idle` is the model's reading (log 23); the acquisition's time starts (log 22). -/
def Obligations.StartAcquisitionIsRejectedWhenBusy : Prop :=
  ∀ (s : State) (rest : List Input), s.inbox = .api .startAcquisition :: rest →
    ∃ t, step s = .next t ∧ t.block = s.block ∧
    (s.seq.configured = false ∨ s.seq.configuring = true ∨ s.seq.acquiring = true ∨ s.seq.state ≠ .idle →
      t.seq = s.seq) ∧
    (s.seq.configured = true → s.seq.configuring = false → s.seq.acquiring = false → s.seq.state = .idle →
      t.seq = { s.seq with acquiring := true, waited := 0 })

/-- 48_host_sequencer.md R118, R119: both reads of the result return the value as it stands and clear the ready flag. -/
def Obligations.TemperatureReadsConsumeTheReadyFlag : Prop :=
  ∀ (s : State) (rest : List Input),
    (s.inbox = .api .isTemperatureReady :: rest → step s = .next
      { s with inbox := rest, rsp := none, ret := some (.ready s.seq.temperatureReady),
               seq := { s.seq with temperatureReady := false } }) ∧
    (s.inbox = .api .getTemperature :: rest → step s = .next
      { s with inbox := rest, rsp := none, ret := some (.temperature s.seq.temperature),
               seq := { s.seq with temperatureReady := false } })
end

