-- ==== Sys2Proof/Laws/Decode.lean ====
section
/-! SUPPORT. The fields of a word put together from its fields (spec/30_encoding.md R42, R47). -/

namespace Sys2Proof

/-- The bits of a command word: `arg` below, `op` above. -/
theorem commandWord_getLsbD (op : BitVec 4) (arg : Byte) (i : Nat) :
    (commandWord op arg).getLsbD i = if i < 8 then arg.getLsbD i else op.getLsbD (i - 8) :=
  BitVec.getLsbD_append

/-- The bits of a timer port word: `ticks` below, `top` above. -/
theorem timerWord_getLsbD (top : BitVec 2) (n : Ticks) (i : Nat) :
    (timerWord top n).getLsbD i = if i < 16 then n.getLsbD i else top.getLsbD (i - 16) :=
  BitVec.getLsbD_append

@[simp] theorem opField_commandWord (op : BitVec 4) (arg : Byte) : opField (commandWord op arg) = op := by
  ext i hi
  simp [opField, commandWord_getLsbD, BitVec.getLsbD_eq_getElem hi]

@[simp] theorem argField_commandWord (op : BitVec 4) (arg : Byte) : argField (commandWord op arg) = arg := by
  ext i hi
  simp [argField, commandWord_getLsbD, hi]

@[simp] theorem bitOperand_commandWord (op : BitVec 4) (arg : Byte) :
    bitOperand (commandWord op arg) = arg.extractLsb' 0 1 := by
  ext i hi
  simp [bitOperand, commandWord_getLsbD, show i < 8 by omega]

@[simp] theorem topField_timerWord (top : BitVec 2) (n : Ticks) : topField (timerWord top n) = top := by
  ext i hi
  simp [topField, timerWord_getLsbD, BitVec.getLsbD_eq_getElem hi]

@[simp] theorem ticksField_timerWord (top : BitVec 2) (n : Ticks) : ticksField (timerWord top n) = n := by
  ext i hi
  simp [ticksField, timerWord_getLsbD, hi]

/-- Every command word is put together from its two fields. -/
theorem commandWord_fields (w : CommandWord) : commandWord (opField w) (argField w) = w := by
  refine BitVec.eq_of_getLsbD_eq fun i hi => ?_
  rw [commandWord_getLsbD]
  by_cases h : i < 8
  · simp [argField, h]
  · simp [opField, h, show i - 8 < 4 by omega, show 8 + (i - 8) = i by omega]

/-- Every timer port word is put together from its two fields. -/
theorem timerWord_fields (t : TimerWord) : timerWord (topField t) (ticksField t) = t := by
  refine BitVec.eq_of_getLsbD_eq fun i hi => ?_
  rw [timerWord_getLsbD]
  by_cases h : i < 16
  · simp [ticksField, h]
  · simp [topField, h, show i - 16 < 2 by omega, show 16 + (i - 16) = i by omega]

end Sys2Proof
end

