-- ==== Sys2Proof/Laws/State.lean ====
section
/-! SUPPORT. One lemma per field per update of the state. -/

namespace Sys2Proof.Machine

section onBlock
variable (f : Block → Block) (s : State)

@[simp] theorem onBlock_block : (s.onBlock f).block = f s.block := rfl
@[simp] theorem onBlock_rsp : (s.onBlock f).rsp = s.rsp := rfl
@[simp] theorem onBlock_seq : (s.onBlock f).seq = s.seq := rfl
@[simp] theorem onBlock_ret : (s.onBlock f).ret = s.ret := rfl
@[simp] theorem onBlock_inbox : (s.onBlock f).inbox = s.inbox := rfl
@[simp] theorem onBlock_line : (s.onBlock f).line = s.line := rfl
@[simp] theorem onBlock_draws : (s.onBlock f).draws = s.draws := rfl
@[simp] theorem onBlock_now : (s.onBlock f).now = s.now := rfl
@[simp] theorem onBlock_trace : (s.onBlock f).trace = s.trace := rfl
@[simp] theorem onBlock_contract : (s.onBlock f).contract = s.contract := rfl

end onBlock

section onSeq
variable (f : Sequencer → Sequencer) (s : State)

@[simp] theorem onSeq_block : (s.onSeq f).block = s.block := rfl
@[simp] theorem onSeq_rsp : (s.onSeq f).rsp = s.rsp := rfl
@[simp] theorem onSeq_seq : (s.onSeq f).seq = f s.seq := rfl
@[simp] theorem onSeq_ret : (s.onSeq f).ret = s.ret := rfl
@[simp] theorem onSeq_inbox : (s.onSeq f).inbox = s.inbox := rfl
@[simp] theorem onSeq_line : (s.onSeq f).line = s.line := rfl
@[simp] theorem onSeq_draws : (s.onSeq f).draws = s.draws := rfl
@[simp] theorem onSeq_now : (s.onSeq f).now = s.now := rfl
@[simp] theorem onSeq_trace : (s.onSeq f).trace = s.trace := rfl
@[simp] theorem onSeq_contract : (s.onSeq f).contract = s.contract := rfl

end onSeq

section emit
variable (e : TraceEvent) (s : State)

@[simp] theorem emit_block : (emit e s).block = s.block := rfl
@[simp] theorem emit_rsp : (emit e s).rsp = s.rsp := rfl
@[simp] theorem emit_seq : (emit e s).seq = s.seq := rfl
@[simp] theorem emit_ret : (emit e s).ret = s.ret := rfl
@[simp] theorem emit_inbox : (emit e s).inbox = s.inbox := rfl
@[simp] theorem emit_line : (emit e s).line = s.line := rfl
@[simp] theorem emit_draws : (emit e s).draws = s.draws := rfl
@[simp] theorem emit_now : (emit e s).now = s.now := rfl
@[simp] theorem emit_trace : (emit e s).trace = s.trace ++ [e] := rfl
@[simp] theorem emit_contract : (emit e s).contract = s.contract := rfl

end emit

section respond
variable (v : Byte) (s : State)

@[simp] theorem respond_block : (respond v s).block = s.block := rfl
@[simp] theorem respond_rsp : (respond v s).rsp = some v := rfl
@[simp] theorem respond_seq : (respond v s).seq = s.seq := rfl
@[simp] theorem respond_ret : (respond v s).ret = s.ret := rfl
@[simp] theorem respond_inbox : (respond v s).inbox = s.inbox := rfl
@[simp] theorem respond_line : (respond v s).line = s.line := rfl
@[simp] theorem respond_draws : (respond v s).draws = s.draws := rfl
@[simp] theorem respond_now : (respond v s).now = s.now := rfl
@[simp] theorem respond_trace : (respond v s).trace = s.trace := rfl
@[simp] theorem respond_contract : (respond v s).contract = s.contract := rfl

end respond

section tick
variable (s : State)

@[simp] theorem tick_block : (tick s).block = s.block.tick := rfl
@[simp] theorem tick_rsp : (tick s).rsp = s.rsp := rfl
@[simp] theorem tick_seq : (tick s).seq = s.seq := rfl
@[simp] theorem tick_ret : (tick s).ret = s.ret := rfl
@[simp] theorem tick_inbox : (tick s).inbox = s.inbox := rfl
@[simp] theorem tick_line : (tick s).line = s.line := rfl
@[simp] theorem tick_draws : (tick s).draws = s.draws := rfl
@[simp] theorem tick_now : (tick s).now = s.now + 1 := rfl
@[simp] theorem tick_trace : (tick s).trace = s.trace := rfl
@[simp] theorem tick_contract : (tick s).contract = s.contract := rfl

end tick

section openStep
variable (s : State)

@[simp] theorem openStep_block : (openStep s).block = s.block := rfl
@[simp] theorem openStep_rsp : (openStep s).rsp = none := rfl
@[simp] theorem openStep_seq : (openStep s).seq = s.seq := rfl
@[simp] theorem openStep_ret : (openStep s).ret = none := rfl
@[simp] theorem openStep_inbox : (openStep s).inbox = s.inbox.tail := rfl
@[simp] theorem openStep_line : (openStep s).line = s.line := rfl
@[simp] theorem openStep_draws : (openStep s).draws = s.draws := rfl
@[simp] theorem openStep_now : (openStep s).now = s.now := rfl
@[simp] theorem openStep_trace : (openStep s).trace = s.trace := rfl
@[simp] theorem openStep_contract : (openStep s).contract = s.contract := rfl

end openStep

end Sys2Proof.Machine
end

