-- ==== Sys2Proof/Laws/Ops.lean ====
section
/-! SUPPORT. What each shared operation does, said once. -/

namespace Sys2Proof.Machine

/-! ## The timer's tick touches only the timer -/

/-- Everything TICK can do (40_timer.md R62). -/
theorem Block.tick_cases (k : Block) :
    (k.run = false ∧ k.tick = k) ∨
    (k.run = true ∧ k.cnt + 1 = k.cmp ∧ k.tick = { k with cnt := k.cnt + 1, run := false, pend := true }) ∨
    (k.run = true ∧ k.cnt + 1 ≠ k.cmp ∧ k.tick = { k with cnt := k.cnt + 1 }) := by
  unfold Block.tick
  cases hr : k.run
  · exact .inl ⟨rfl, by simp⟩
  · by_cases hc : k.cnt + 1 = k.cmp
    · exact .inr (.inl ⟨rfl, hc, by rw [if_pos rfl, if_pos hc]⟩)
    · exact .inr (.inr ⟨rfl, hc, by rw [if_pos rfl, if_neg hc]⟩)

/-- The registers that are not the timer's own. -/
theorem Block.tick_frame (k : Block) :
    k.tick.bs = k.bs ∧ k.tick.val = k.val ∧ k.tick.rem = k.rem ∧ k.tick.dir = k.dir ∧
      k.tick.last = k.last ∧ k.tick.owdrv = k.owdrv ∧ k.tick.cmp = k.cmp := by
  obtain ⟨_, h⟩ | ⟨_, _, h⟩ | ⟨_, _, h⟩ := k.tick_cases <;> simp [h]

/-- A halted timer stays as it is. -/
theorem Block.tick_halted {k : Block} (h : k.run = false) : k.tick = k := by
  simp [Block.tick, h]

@[simp] theorem tickN_succ (n : Nat) (s : State) : tickN (n + 1) s = tickN n (tick s) := rfl

/-- n ticks change the timer's registers, the clock, and nothing else. -/
theorem tickN_eq (n : Nat) (s : State) :
    ∃ c r p, tickN n s =
      { s with block := { s.block with cnt := c, run := r, pend := p }, now := s.now + n } := by
  induction n generalizing s with
  | zero => exact ⟨s.block.cnt, s.block.run, s.block.pend, rfl⟩
  | succ n ih =>
    obtain ⟨c, r, p, h⟩ := ih (tick s)
    obtain ⟨hbs, hval, hrem, hdir, hlast, how, hcmp⟩ := s.block.tick_frame
    refine ⟨c, r, p, ?_⟩
    rw [tickN_succ, h]
    simp [hbs, hval, hrem, hdir, hlast, how, hcmp, tick, Nat.add_comm 1 n, Nat.add_assoc]

/-- A busy-wait shows in the trace and in elapsed time, beside the timer's registers (43_bit_ops.md R92). -/
theorem busyWait_eq (n : Nat) (s : State) :
    ∃ c r p, busyWait n s =
      { s with block := { s.block with cnt := c, run := r, pend := p }, now := s.now + n,
               trace := s.trace ++ [.bw n] } := by
  obtain ⟨c, r, p, h⟩ := tickN_eq n s
  exact ⟨c, r, p, by rw [busyWait, h]; rfl⟩

/-! ## The two bit slots -/

/-- All that a write slot's head does (43_bit_ops.md R90). -/
theorem writeBitBody_eq (b : Bit) (s : State) :
    writeBitBody b s =
      { s with block := { s.block with bs := writeRecoveryState b, owdrv := false, cnt := 0,
                                       cmp := writeRecoveryTicks b, run := true, pend := false }
               now := s.now + writeLowTicks b
               trace := s.trace ++ writeSlotTrace b } := by
  obtain ⟨c, r, p, h⟩ := busyWait_eq (writeLowTicks b) (driveLow s)
  simp only [writeBitBody, h]
  simp [driveLow, release, timerStop, timerArm, State.onBlock, emit, writeSlotTrace]

/-- The environment's answer, and all that it leaves changed (60_exceptions.md R151). -/
theorem lineAnswer_eq (s : State) :
    ∃ b l d, s.answers s.block.owdrv b l d ∧ lineAnswer s = (b, { s with line := l, draws := d }) := by
  unfold State.answers lineAnswer
  cases s.block.owdrv with
  | true => exact ⟨0, s.line, s.draws, ⟨rfl, rfl, rfl⟩, rfl⟩
  | false =>
    cases hl : s.line with
    | nil => exact ⟨_, _, _, .inr ⟨rfl, rfl, rfl, rfl⟩, rfl⟩
    | cons b rest => exact ⟨b, rest, s.draws, .inl ⟨rfl, rfl⟩, rfl⟩

/-- A state gives one answer. -/
theorem answers_unique {driving : Bool} {s : State} {b b' : Bit} {l l' : List Bit} {d d' : Nat}
    (h : s.answers driving b l d) (h' : s.answers driving b' l' d') : b = b' ∧ l = l' ∧ d = d' := by
  unfold State.answers at h h'
  cases driving with
  | true =>
    obtain ⟨rfl, rfl, rfl⟩ := h
    obtain ⟨rfl, rfl, rfl⟩ := h'
    exact ⟨rfl, rfl, rfl⟩
  | false => cases hl : s.line <;> simp_all

/-- An answer is the first of the levels to come, and the rest are those of what it leaves. -/
theorem answers_levels {s : State} {b : Bit} {l : List Bit} {d : Nat} (h : s.answers false b l d) (n : Nat) :
    levels (n + 1) s.line s.draws = b :: levels n l d ∧ s.line.drop (n + 1) = l.drop n ∧
      s.draws + (n + 1 - s.line.length) = d + (n - l.length) := by
  unfold State.answers at h
  rw [if_neg (by decide)] at h
  obtain ⟨hl, rfl⟩ | ⟨hl, rfl, rfl, rfl⟩ := h
  · rw [hl]
    exact ⟨rfl, rfl, by rw [List.length_cons]; omega⟩
  · rw [hl]
    exact ⟨rfl, by rw [List.drop_nil, List.drop_nil], by rw [List.length_nil]; omega⟩

/-- All that a read slot's head does (43_bit_ops.md R91): it samples the line it has released. -/
theorem readBitBody_eq (s : State) :
    ∃ b l d, s.answers false b l d ∧
      readBitBody s =
        (b, { s with block := { s.block with bs := .readRecovery, last := bitMailbox b, owdrv := false, cnt := 0,
                                             cmp := ticks Config.tRdRec, run := true, pend := false }
                     now := s.now + (Config.tRdInit + Config.tRdSample)
                     line := l
                     draws := d
                     trace := s.trace ++ readSlotTrace b }) := by
  obtain ⟨c, r, p, h⟩ := busyWait_eq Config.tRdInit (driveLow s)
  simp only [readBitBody, h]
  generalize hs1 : release _ = s1
  obtain ⟨c', r', p', h'⟩ := busyWait_eq Config.tRdSample s1
  rw [h']
  subst hs1
  generalize hs2 : State.mk _ _ _ _ _ _ _ _ _ _ = s2
  obtain ⟨b, l, d, ha, hb⟩ := lineAnswer_eq s2
  subst hs2
  refine ⟨b, l, d, ha, ?_⟩
  simp only [sampleLevel, hb]
  simp [driveLow, release, stopThenArm, timerStop, timerArm, State.onBlock, emit, readSlotTrace, Nat.add_assoc]

/-! ## Running on a next state -/

@[simp] theorem andThen_next (s : State) (f : State → Result) : andThen (.next s) f = f s := rfl
@[simp] theorem andThen_refused (r : Refusal) (f : State → Result) : andThen (.refused r) f = .refused r := rfl

/-- `andThen` answers a next state only through one. -/
theorem andThen_eq_next {o : Result} {f : State → Result} {t : State} :
    andThen o f = .next t ↔ ∃ s, o = .next s ∧ f s = .next t := by
  cases o with
  | next s => simp [andThen]
  | fault r => exact nomatch r
  | refused r => simp [andThen]

end Sys2Proof.Machine
end

