-- ==== Sys2Proof/Laws/Handler.lean ====
section
/-! SUPPORT. What the recovery arms of the handler and the command port do, said once. -/

namespace Sys2Proof.Machine

/-- A write recovery with no bit left ends the operation (44_byte_ops.md R102). -/
theorem writeRecoveryArm_last {s : State} (h : s.block.rem = 0) :
    writeRecoveryArm s = { s with block := { s.block with bs := .idle } } := by
  simp [writeRecoveryArm, h, goIdle, State.onBlock]

/-- A write recovery with bits left starts the next slot (44_byte_ops.md R102). -/
theorem writeRecoveryArm_more {s : State} (h : s.block.rem ≠ 0) :
    writeRecoveryArm s =
      writeBitBody (nextBit (shiftRight s.block.val))
        { s with block := { s.block with rem := s.block.rem - 1, val := shiftRight s.block.val } } := by
  rw [writeRecoveryArm, if_neg h]; rfl

/-- A read recovery with no bit left takes the mailbox and ends the operation (44_byte_ops.md R103). -/
theorem readRecoveryArm_last {s : State} (h : s.block.rem = 0) :
    readRecoveryArm s =
      { s with block := { s.block with val := accumulate s.block.last s.block.val, last := .notReady, bs := .idle } } := by
  simp [readRecoveryArm, h, goIdle, State.onBlock]

/-- A read recovery with bits left takes the mailbox, shifts, and starts the next slot (44_byte_ops.md R103). -/
theorem readRecoveryArm_more {s : State} (h : s.block.rem ≠ 0) :
    readRecoveryArm s =
      (readBitBody
        { s with block := { s.block with val := shiftRight (accumulate s.block.last s.block.val), last := .notReady,
                                         rem := s.block.rem - 1 } }).2 := by
  rw [readRecoveryArm, if_neg (by simpa using h)]; rfl

/-- The handler code of a bus state decodes to the arm of that state (30_encoding.md R48, 60_exceptions.md R143). -/
theorem decode_code (b : BusState) : decode (.handler b.code) = .ok (handlerArm b) := by
  cases b <;> rfl

/-- A code names the bus state it encodes. -/
theorem ofCode_code (b : BusState) : BusState.ofCode b.code = some b := by
  cases b <;> rfl

/-- A command is performed, or refused for its duty while `contract` is set. -/
theorem issue_cases (i : Instr) (s : State) :
    (issue i s = .refused .initiatedWhileBusy ∧ s.contract = true ∧ breaksIdleDuty i s = true) ∨
      (issue i s = exec i s ∧ (s.contract = true → breaksIdleDuty i s = false)) := by
  unfold issue
  cases s.contract <;> cases breaksIdleDuty i s <;> simp

/-- With no refusing of breaches, issuing is performing. -/
theorem issue_literal {i : Instr} {s : State} (h : s.contract = false) : issue i s = exec i s := by
  simp [issue, h]

/-- A command that initiates nothing is performed in every state. -/
theorem issue_noninitiating {i : Instr} {s : State} (h : initiates i = false) : issue i s = exec i s := by
  simp [issue, breaksIdleDuty, h]

end Sys2Proof.Machine
end

