-- ==== Sys2Proof/Laws/PerInstr.lean ====
section
/-! SUPPORT. Facts about every instruction as syntax, one lemma per constructor. -/

namespace Sys2Proof.Laws.EncodedWord

/-- The encoded word shows the row's match under the row's mask, as spec/opcode_table.json gives them. -/
def Statement : Instr → Prop
  | .init => ∃ w, encode .init = .command w ∧ w &&& 0xF00 = 0x000
  | .detectPresence => ∃ w, encode .detectPresence = .command w ∧ w &&& 0xF00 = 0x100
  | .getPresence => ∃ w, encode .getPresence = .command w ∧ w &&& 0xF00 = 0x200
  | .writeBit b => ∃ w, encode (.writeBit b) = .command w ∧ w &&& 0xF00 = 0x300
  | .readBit => ∃ w, encode .readBit = .command w ∧ w &&& 0xF00 = 0x400
  | .writeByte v => ∃ w, encode (.writeByte v) = .command w ∧ w &&& 0xF00 = 0x500
  | .startReadByte => ∃ w, encode .startReadByte = .command w ∧ w &&& 0xF00 = 0x600
  | .isIdle => ∃ w, encode .isIdle = .command w ∧ w &&& 0xF00 = 0x700
  | .getLastByte => ∃ w, encode .getLastByte = .command w ∧ w &&& 0xF00 = 0x800
  | .arm n => ∃ t, encode (.arm n) = .timer t ∧ t &&& 0x30000 = 0x20000
  | .stop => ∃ t, encode .stop = .timer t ∧ t &&& 0x30000 = 0x10000
  | .expIdle => ∃ x, encode .expIdle = .handler x ∧ x &&& 7 = 0
  | .expPdl => ∃ x, encode .expPdl = .handler x ∧ x &&& 7 = 1
  | .expPs => ∃ x, encode .expPs = .handler x ∧ x &&& 7 = 2
  | .expPr => ∃ x, encode .expPr = .handler x ∧ x &&& 7 = 3
  | .expW0r => ∃ x, encode .expW0r = .handler x ∧ x &&& 7 = 4
  | .expW1r => ∃ x, encode .expW1r = .handler x ∧ x &&& 7 = 5
  | .expRr => ∃ x, encode .expRr = .handler x ∧ x &&& 7 = 6

theorem init : Statement .init := ⟨_, rfl, by decide⟩
theorem detectPresence : Statement .detectPresence := ⟨_, rfl, by decide⟩
theorem getPresence : Statement .getPresence := ⟨_, rfl, by decide⟩
theorem writeBit (b : Bit) : Statement (.writeBit b) := ⟨_, rfl, by revert b; decide⟩
theorem readBit : Statement .readBit := ⟨_, rfl, by decide⟩
theorem writeByte (v : Byte) : Statement (.writeByte v) := ⟨_, rfl, by
  refine BitVec.eq_of_getLsbD_eq fun i hi => ?_
  rw [BitVec.getLsbD_and, commandWord_getLsbD]
  interval_cases i <;> simp⟩
theorem startReadByte : Statement .startReadByte := ⟨_, rfl, by decide⟩
theorem isIdle : Statement .isIdle := ⟨_, rfl, by decide⟩
theorem getLastByte : Statement .getLastByte := ⟨_, rfl, by decide⟩
theorem arm (n : Ticks) : Statement (.arm n) := ⟨_, rfl, by
  refine BitVec.eq_of_getLsbD_eq fun i hi => ?_
  rw [BitVec.getLsbD_and, timerWord_getLsbD]
  interval_cases i <;> simp⟩
theorem stop : Statement .stop := ⟨_, rfl, by decide⟩
theorem expIdle : Statement .expIdle := ⟨_, rfl, by decide⟩
theorem expPdl : Statement .expPdl := ⟨_, rfl, by decide⟩
theorem expPs : Statement .expPs := ⟨_, rfl, by decide⟩
theorem expPr : Statement .expPr := ⟨_, rfl, by decide⟩
theorem expW0r : Statement .expW0r := ⟨_, rfl, by decide⟩
theorem expW1r : Statement .expW1r := ⟨_, rfl, by decide⟩
theorem expRr : Statement .expRr := ⟨_, rfl, by decide⟩

end Sys2Proof.Laws.EncodedWord
end

