-- ==== Sys2Proof/Laws/Run.lean ====
section
/-! SUPPORT. Runs of the block by itself, with no input listed: the ticks of an armed timer, then its handler run. -/

namespace Sys2Proof.Machine

/-- The state with the outputs of the last step withdrawn. -/
def quiet (s : State) : State := { s with rsp := none, ret := none }

/-- The host's run through a next state. -/
theorem run_next {M : Host.Core} {s t : M.State} (h : M.step s = .next t) (k : Nat) : M.run (k + 1) s = M.run k t := by
  simp [Host.Core.run, h]

/-- The host's run stops at a refusal. -/
theorem run_refused {M : Host.Core} {s : M.State} {r : M.Refusal} (h : M.step s = .refused r) (k : Nat) :
    M.run (k + 1) s = .refused r := by
  simp [Host.Core.run, h]

/-- `steps` is the host's `Core.run`. -/
theorem steps_eq_run (k : Nat) (s : State) : steps k s = Host.Core.run core k s := by
  induction k generalizing s with
  | zero => rfl
  | succ k ih =>
    cases h : step s with
    | next t =>
      have e : steps (k + 1) s = steps k t := by rw [steps, h]; rfl
      exact e.trans ((ih t).trans (run_next (M := core) h k).symm)
    | fault r => exact nomatch r
    | refused r =>
      have e : steps (k + 1) s = .refused r := by rw [steps, h]; rfl
      exact e.trans (run_refused (M := core) h k).symm

theorem steps_succ (k : Nat) (s : State) : steps (k + 1) s = andThen (step s) (steps k) := rfl

/-- No step after a result leaves the result. -/
theorem andThen_steps_zero (o : Result) : andThen o (steps 0) = o := by
  cases o <;> rfl

/-- A run is its parts in a row. -/
theorem steps_add (j k : Nat) (s : State) : steps (j + k) s = andThen (steps j s) (steps k) := by
  induction j generalizing s with
  | zero => rw [Nat.zero_add]; rfl
  | succ j ih =>
    rw [show j + 1 + k = (j + k) + 1 by omega, steps_succ, steps_succ]
    cases step s with
    | next t => exact ih t
    | fault r => exact nomatch r
    | refused r => rfl

/-- With no input listed and no event pending, the block ticks. -/
theorem step_ticks {s : State} (h : s.inbox = []) (hp : s.block.pend = false) : step s = .next (tick (quiet s)) := by
  simp [step, nextInput, h, hp, runInput, openStep, quiet]

/-- With no input listed and an event pending, the handler runs. -/
theorem step_expires {s : State} (h : s.inbox = []) (hp : s.block.pend = true) :
    step s = exec (handlerArm s.block.bs) (quiet s) := by
  simp [step, nextInput, h, hp, runInput, expireStep, openStep, quiet]

/-- The last `m + 1` ticks of a running timer: the event fires on the last of them (40_timer.md R62). -/
theorem steps_countdown (m : Nat) (s : State) (h : s.inbox = []) (hp : s.block.pend = false)
    (hr : s.block.run = true) (hm : s.block.cnt.toNat + (m + 1) = s.block.cmp.toNat) :
    steps (m + 1) s = .next
      { quiet s with block := { s.block with cnt := s.block.cmp, run := false, pend := true }
                     now := s.now + (m + 1) } := by
  have hlt := s.block.cmp.isLt
  induction m generalizing s with
  | zero =>
    have hc : s.block.cnt + 1 = s.block.cmp := by
      apply BitVec.eq_of_toNat_eq
      simp
      omega
    rw [steps_succ, step_ticks h hp]
    show Host.Outcome.next _ = _
    simp only [tick, quiet, Block.tick, hr, if_true, if_pos hc]
    rw [← hc]
  | succ m ih =>
    have hc : s.block.cnt + 1 ≠ s.block.cmp := by
      intro hh
      have := congrArg BitVec.toNat hh
      simp at this
      omega
    have e : tick (quiet s) =
        { quiet s with block := { s.block with cnt := s.block.cnt + 1 }, now := s.now + 1 } := by
      simp only [tick, quiet, Block.tick, hr, if_true, if_neg hc]
    rw [steps_succ, step_ticks h hp, andThen_next, e,
      ih _ (by exact h) (by exact hp) (by exact hr) (by simp; omega) (by exact hlt)]
    simp [quiet, Nat.add_assoc, Nat.add_comm 1]

/-- A timer just armed with n: n ticks, then the handler run of the arm that `BS` selects. -/
theorem steps_armed (n : Ticks) (hn : n ≠ 0) (s : State) (h : s.inbox = []) (hp : s.block.pend = false)
    (hr : s.block.run = true) (hc : s.block.cnt = 0) (hm : s.block.cmp = n) :
    steps (n.toNat + 1) s =
      exec (handlerArm s.block.bs)
        { quiet s with block := { s.block with cnt := n, run := false, pend := true }, now := s.now + n.toNat } := by
  have h0 : n.toNat ≠ 0 := fun hh => hn (BitVec.eq_of_toNat_eq hh)
  obtain ⟨m, e⟩ : ∃ m, n.toNat = m + 1 := ⟨n.toNat - 1, by omega⟩
  rw [steps_add, e, steps_countdown m s h hp hr (by rw [hc, hm, e]; simp), andThen_next, steps_succ,
    andThen_steps_zero, step_expires (by exact h) rfl, hm]
  rfl

end Sys2Proof.Machine
end

