-- ==== Sys2Proof/Laws/Sequencer.lean ====
section
/-! SUPPORT. What the sequencer's count of an acquisition's time does, said once (spec/48_host_sequencer.md R129). -/

namespace Sys2Proof.Machine

/-- When an acquisition is under way, in words. -/
theorem acquisitionUnderWay_iff (q : Sequencer) :
    acquisitionUnderWay q = true ↔ q.configuring = false ∧ (q.acquiring = true ∨ q.state ≠ .idle) := by
  simp [acquisitionUnderWay]

/-- Everything a scheduler tick does to the sequencer before its task call. -/
theorem countTick_eq (q : Sequencer) : ∃ n e,
    countTick q = { q with waited := n, timeoutExpired := e } ∧
    (acquisitionUnderWay q = false → n = q.waited ∧ e = q.timeoutExpired) ∧
    (acquisitionUnderWay q = true → n = q.waited + 1 ∧
      (e = true ↔ q.timeoutExpired = true ∨ Config.acqTimeoutTicks ≤ q.waited + 1)) := by
  unfold countTick
  cases acquisitionUnderWay q with
  | false => exact ⟨q.waited, q.timeoutExpired, rfl, fun _ => ⟨rfl, rfl⟩, nofun⟩
  | true => exact ⟨_, _, rfl, nofun, fun _ => ⟨rfl, by simp⟩⟩

/-- Everything servicing an expired timeout does. -/
theorem serviceTimeout_cases (q : Sequencer) :
    (acquisitionUnderWay q = true ∧
      serviceTimeout q = { q with timeoutExpired := false, state := .errorFound, detectOwed := false, waited := 0 }) ∨
    (acquisitionUnderWay q = false ∧ serviceTimeout q = { q with timeoutExpired := false }) := by
  unfold serviceTimeout
  cases acquisitionUnderWay q with
  | false => exact .inr ⟨rfl, rfl⟩
  | true => exact .inl ⟨rfl, rfl⟩

end Sys2Proof.Machine
end

