-- ==== Sys2Proof/Tests/Slice0.lean ====
section
/-! SUPPORT. Tests of the model, expected values from spec/95_test_vectors.md and the examples of the rules; and, for
every statement with hypotheses, states and operands that meet them. -/

namespace Sys2Proof.Tests

open Sys2Proof Sys2Proof.Machine

/-! ## Helpers -/

/-- A state with the given block, and the levels that the bus will answer. -/
def on (k : Block) (line : List Bit) : State := { State.reset with block := k, line := line }

/-- A state with the given inputs to come. -/
def listing (inbox : List Input) (s : State) : State := { s with inbox := inbox }

/-- A state with the given sequencer, before the given inputs. -/
def hosting (q : Sequencer) (inbox : List Input) : State := { State.reset with seq := q, inbox := inbox }

/-- A row of a vector: `BS VAL REM DIR LAST OWDRV | RUN CNT CMP PEND`. -/
def row (bs : BusState) (val : Byte) (rem : RemCount) (dir : Direction) (last : LastSample) (owdrv run : Bool)
    (cnt cmp : Ticks) (pend : Bool) : Block :=
  { bs, val, rem, dir, last, owdrv, cnt, cmp, run, pend }

def next? (o : Result) : Option State :=
  match o with
  | .next s => some s
  | .fault _ => none
  | .refused _ => none

def refusal? (o : Result) : Option Refusal :=
  match o with
  | .next _ => none
  | .fault _ => none
  | .refused r => some r

def block? (o : Result) : Option Block := (next? o).map (·.block)
def rsp? (o : Result) : Option Byte := (next? o).bind (·.rsp)
def trace? (o : Result) : Option (List TraceEvent) := (next? o).map (·.trace)

/-- The block, the response and the trace of a result. -/
def seen (o : Result) : Option (Block × Option Byte × List TraceEvent) :=
  (next? o).map fun s => (s.block, s.rsp, s.trace)

/-- `S0` of 95_test_vectors.md. -/
def s0 : Block := row .idle 0x00 0 .write .notReady false false 0 0 false

/-- One of each instruction. -/
def samples : List Instr :=
  [.init, .detectPresence, .getPresence, .writeBit 0, .writeBit 1, .readBit, .writeByte 0xA5, .startReadByte] ++
  [.isIdle, .getLastByte, .arm 1, .arm 0xFFFF, .stop] ++
  [.expIdle, .expPdl, .expPs, .expPr, .expW0r, .expW1r, .expRr]

/-- A write with six bits to go, fired. -/
def writing : Block := row .write0Recovery 0x2A 6 .write .bit1 false false 20 20 true

/-- The last bit of a write, fired. -/
def lastWrite : Block := row .write1Recovery 0x01 0 .write .notReady false false 128 128 true

/-- A read with six bits to go, fired. -/
def reading : Block := row .readRecovery 0x40 6 .read .bit0 false false 110 110 true

/-- The last bit of a read, fired. -/
def lastRead : Block := row .readRecovery 0x25 0 .read .bit1 false false 110 110 true

/-! ## Well-formedness (40_timer.md R65) -/

theorem test_wf_refuses_arm_zero : Instr.wf (.arm 0) = false := by decide
theorem test_wf_accepts_the_samples : samples.all Instr.wf = true := by decide

/-! ## Decoding: words of vector V21, written out from 30_encoding.md R42, R47, R48 -/

theorem test_decode_control :
    decode (.command 0b0000_00000000) = .ok .init ∧ decode (.command 0b0111_00000000) = .ok .isIdle ∧
    decode (.command 0b0010_00000000) = .ok .getPresence ∧ decode (.command 0b1000_00000000) = .ok .getLastByte := by
  decide

theorem test_decode_bus_operations :
    decode (.command 0b0001_00000000) = .ok .detectPresence ∧
    decode (.command 0b0011_00000000) = .ok (.writeBit 0) ∧ decode (.command 0b0011_00000001) = .ok (.writeBit 1) ∧
    decode (.command 0b0100_00000000) = .ok .readBit ∧
    decode (.command 0b0101_01010101) = .ok (.writeByte 0x55) ∧
    decode (.command 0b0101_11001100) = .ok (.writeByte 0xCC) ∧
    decode (.command 0b0110_00000000) = .ok .startReadByte := by
  decide

/-- "argument bits 7..1 ignored" (V10); 0x7AB, "arg ignored" (V21). -/
theorem test_decode_ignores_unused_bits :
    decode (.command 0x3FE) = .ok (.writeBit 0) ∧ decode (.command 0x3FF) = .ok (.writeBit 1) ∧
    decode (.command 0x7AB) = .ok .isIdle := by
  decide

theorem test_decode_reserved :
    decode (.command 0x900) = .error (.reservedOpcode 0x9) ∧
    decode (.command 0xF00) = .error (.reservedOpcode 0xF) := by
  decide

theorem test_decode_timer_port :
    decode (.timer 0b01_0000000000000000) = .ok .stop ∧
    decode (.timer 0b10_0000001111000000) = .ok (.arm 960) ∧
    decode (.timer 0x2008C) = .ok (.arm 140) ∧ decode (.timer 0x20334) = .ok (.arm 820) ∧
    decode (.timer 0x2006E) = .ok (.arm 110) ∧ decode (.timer 0x20014) = .ok (.arm 20) ∧
    decode (.timer 0x20080) = .ok (.arm 128) ∧
    decode (.timer 0) = .error .timerNoOperation ∧ decode (.timer 0x30000) = .error .reservedTimerOperation := by
  decide

theorem test_decode_handler :
    decode (.handler 0b000) = .ok .expIdle ∧ decode (.handler 0b001) = .ok .expPdl ∧
    decode (.handler 0b010) = .ok .expPs ∧ decode (.handler 0b011) = .ok .expPr ∧
    decode (.handler 0b100) = .ok .expW0r ∧ decode (.handler 0b101) = .ok .expW1r ∧
    decode (.handler 0b110) = .ok .expRr ∧ decode (.handler 0b111) = .error .noHandler := by
  decide

/-- The assembly column of V21, and its timer words. -/
theorem test_encode_words :
    encode (.writeByte 0x55) = .command 0x555 ∧ encode (.writeBit 1) = .command 0x301 ∧
    encode .getLastByte = .command 0x800 ∧ encode .stop = .timer 0x10000 ∧
    encode (.arm 960) = .timer 0x203C0 ∧ encode .expRr = .handler 6 := by
  decide

theorem test_decodeTableWord :
    decodeTableWord 16 0x5CC = some (.writeByte 0xCC) ∧ decodeTableWord 24 0x203C0 = some (.arm 960) ∧
    decodeTableWord 8 5 = some .expW1r ∧ decodeTableWord 16 0x900 = none ∧ decodeTableWord 16 0x1000 = none := by
  decide

/-- `withFetchWord` makes the next step after reset run the instruction. -/
theorem test_withFetchWord :
    rsp? (step (State.reset.withFetchWord 16 0x700)) = some 0x01 ∧
    block? (step (State.reset.withFetchWord 24 0x20014)) =
      some (row .idle 0x00 0 .write .notReady false true 0 20 false) ∧
    block? (step (State.reset.withFetchWord 8 1)) =
      some (row .presenceSample 0x00 0 .write .notReady false true 0 140 false) := by
  decide

/-! ## The timer: V1 to V4 and the examples of 40_timer.md -/

/-- V1: fire after n ticks. -/
theorem test_tick_fires :
    (row .idle 0 0 .write .notReady false true 1 3 false).tick = row .idle 0 0 .write .notReady false true 2 3 false ∧
    (row .idle 0 0 .write .notReady false true 2 3 false).tick = row .idle 0 0 .write .notReady false false 3 3 true ∧
    (row .idle 0 0 .write .notReady false false 3 3 true).tick = row .idle 0 0 .write .notReady false false 3 3 true := by
  decide

/-- R60, V3: `ARM 960` from `1 57 110 0`. -/
theorem test_arm :
    block? (exec (.arm 960) (on (row .readRecovery 0 7 .read .bit0 false true 57 110 false) [])) =
      some (row .readRecovery 0 7 .read .bit0 false true 0 960 false) := by
  decide

/-- R65, V4: `ARM 0` is refused. -/
theorem test_arm_zero : refusal? (exec (.arm 0) State.reset) = some .armZero := by decide

/-- V2: `STOP` from `1 57 110 0`, and from `0 110 110 1` (the event is dropped). -/
theorem test_stop :
    block? (exec .stop (on (row .readRecovery 0 7 .read .bit0 false true 57 110 false) [])) =
      some (row .readRecovery 0 7 .read .bit0 false false 57 110 false) ∧
    block? (exec .stop (on reading [])) = some { reading with pend := false } := by
  decide

/-! ## Control: V4b, V7, V9b -/

/-- V4b: `INIT` from a busy state, and in `PresenceDriveLow`. -/
theorem test_init :
    seen (exec .init (on (row .write1Recovery 0x2A 6 .write .bit1 false true 40 128 false) [])) =
      some (row .idle 0x00 0 .write .notReady false false 40 128 false, some 0x00, [.stop, .rl]) ∧
    block? (exec .init (on (row .presenceDriveLow 0x00 0 .write .notReady true true 500 960 false) [])) =
      some (row .idle 0x00 0 .write .notReady false false 500 960 false) := by
  decide

/-- V4b: with `PEND` = 1, no handler run follows. -/
theorem test_init_drops_the_event :
    block? (exec .init (on reading [])) = some (row .idle 0x00 0 .write .notReady false false 110 110 false) := by
  decide

/-- V19: a command between fire and handler. -/
theorem test_isIdle :
    seen (exec .isIdle (on lastWrite [])) = some (lastWrite, some 0x00, []) ∧
    rsp? (exec .isIdle (on s0 [])) = some 0x01 := by
  decide

/-- V7, every row. -/
theorem test_getPresence :
    rsp? (exec .getPresence (on { s0 with last := .presenceOk } [])) = some 0x01 ∧
    rsp? (exec .getPresence (on { s0 with last := .presenceNotOk } [])) = some 0x00 ∧
    rsp? (exec .getPresence (on { s0 with last := .notReady } [])) = some 0x00 ∧
    rsp? (exec .getPresence (on { s0 with last := .bit0 } [])) = some 0x00 ∧
    rsp? (exec .getPresence (on { s0 with last := .bit1 } [])) = some 0x00 := by
  decide

/-- V7: "Nothing else changes, in any `BS`". -/
theorem test_getPresence_consumes :
    block? (exec .getPresence (on writing [])) = some { writing with last := .notReady } := by
  decide

/-- V9b: after V15, `GET_LAST_BYTE` answers 0xA5 and changes nothing. -/
theorem test_getLastByte :
    seen (exec .getLastByte (on (row .idle 0xA5 0 .read .notReady false false 110 110 false) [])) =
      some (row .idle 0xA5 0 .read .notReady false false 110 110 false, some 0xA5, []) := by
  decide

/-- 60_exceptions.md R144. -/
theorem test_expIdle :
    seen (exec .expIdle (on { s0 with pend := true } [])) = some (s0, none, [.exp]) := by
  decide

/-! ## Presence: V5, V6 -/

/-- V5, first row. -/
theorem test_detectPresence :
    seen (exec .detectPresence (on s0 [])) =
      some (row .presenceDriveLow 0x00 0 .write .notReady true true 0 960 false, some 0x00,
        [.dl, .stop, .arm 960]) := by
  decide

/-- V17: a breach of the idle duty runs as written; the old sample stays in the mailbox. -/
theorem test_detectPresence_in_readRecovery :
    block? (exec .detectPresence (on (row .readRecovery 0x00 0 .write .bit1 false true 10 110 false) [])) =
      some (row .presenceDriveLow 0x00 0 .write .bit1 true true 0 960 false) := by
  decide

/-- V5, second row; R81. -/
theorem test_expPdl :
    seen (exec .expPdl (on (row .presenceDriveLow 0x00 0 .write .notReady true false 960 960 true) [])) =
      some (row .presenceSample 0x00 0 .write .notReady false true 0 140 false, none,
        [.exp, .rl, .stop, .arm 140]) := by
  decide

/-- V5 and V6, third row; R82. -/
theorem test_expPs :
    seen (exec .expPs (on (row .presenceSample 0x00 0 .write .notReady false false 140 140 true) [0])) =
      some (row .presenceRecovery 0x00 0 .write .presenceOk false true 0 820 false, none,
        [.exp, .sm 0, .stop, .arm 820]) ∧
    block? (exec .expPs (on (row .presenceSample 0x00 0 .write .notReady false false 140 140 true) [1])) =
      some (row .presenceRecovery 0x00 0 .write .presenceNotOk false true 0 820 false) := by
  decide

/-- V5, fourth row; R83. -/
theorem test_expPr :
    seen (exec .expPr (on (row .presenceRecovery 0x00 0 .write .presenceOk false false 820 820 true) [])) =
      some (row .idle 0x00 0 .write .presenceOk false false 820 820 false, none, [.exp]) := by
  decide

/-! ## Bit slots: V9 to V12 -/

/-- V9 and V10. -/
theorem test_writeBit :
    seen (exec (.writeBit 0) (on s0 [])) =
      some (row .write0Recovery 0x00 0 .write .notReady false true 0 20 false, some 0x00,
        [.dl, .bw 120, .rl, .stop, .arm 20]) ∧
    seen (exec (.writeBit 1) (on s0 [])) =
      some (row .write1Recovery 0x00 0 .write .notReady false true 0 128 false, some 0x00,
        [.dl, .bw 12, .rl, .stop, .arm 128]) := by
  decide +kernel

/-- V11. -/
theorem test_readBit :
    seen (exec .readBit (on s0 [1])) =
      some (row .readRecovery 0x00 0 .write .bit1 false true 0 110 false, some 0x01,
        [.dl, .bw 12, .rl, .bw 18, .sm 1, .stop, .arm 110]) ∧
    rsp? (exec .readBit (on s0 [0])) = some 0x00 := by
  decide +kernel

/-- V12: the recovery of a standalone read of 1 sets bit 7 of `VAL`, of 0 leaves it. -/
theorem test_expRr_standalone :
    block? (exec .expRr (on lastRead [])) = some (row .idle 0xA5 0 .read .notReady false false 110 110 false) ∧
    block? (exec .expRr (on { lastRead with last := .bit0 } [])) =
      some (row .idle 0x25 0 .read .notReady false false 110 110 false) := by
  decide

/-! ## Byte transfer: V13 to V16 -/

/-- V13, first row. -/
theorem test_writeByte :
    seen (exec (.writeByte 0x55) (on s0 [])) =
      some (row .write1Recovery 0x55 7 .write .notReady false true 0 128 false, some 0x00,
        [.dl, .bw 12, .rl, .stop, .arm 128]) := by
  decide +kernel

/-- V13, row `EXPIRE` 1, and V14 for 0xA5, run 1. -/
theorem test_expW1r :
    seen (exec .expW1r (on (row .write1Recovery 0x55 7 .write .notReady false false 128 128 true) [])) =
      some (row .write0Recovery 0x2A 6 .write .notReady false true 0 20 false, none,
        [.exp, .dl, .bw 120, .rl, .stop, .arm 20]) ∧
    seen (exec .expW1r (on lastWrite [])) =
      some (row .idle 0x01 0 .write .notReady false false 128 128 false, none, [.exp]) := by
  decide +kernel

/-- V13, rows `EXPIRE` 2 and `EXPIRE` 8. -/
theorem test_expW0r :
    block? (exec .expW0r (on (row .write0Recovery 0x2A 6 .write .notReady false false 20 20 true) [])) =
      some (row .write1Recovery 0x15 5 .write .notReady false true 0 128 false) ∧
    block? (exec .expW0r (on (row .write0Recovery 0x00 0 .write .notReady false false 20 20 true) [])) =
      some (row .idle 0x00 0 .write .notReady false false 20 20 false) := by
  decide +kernel

/-- V15, first row. -/
theorem test_startReadByte :
    seen (exec .startReadByte (on s0 [1])) =
      some (row .readRecovery 0x00 7 .read .bit1 false true 0 110 false, some 0x00,
        [.dl, .bw 12, .rl, .bw 18, .sm 1, .stop, .arm 110]) := by
  decide +kernel

/-- The example of 44_byte_ops.md R103, and V15, row `EXPIRE` 1. -/
theorem test_expRr :
    seen (exec .expRr (on reading [1])) =
      some (row .readRecovery 0x20 5 .read .bit1 false true 0 110 false, none,
        [.exp, .dl, .bw 12, .rl, .bw 18, .sm 1, .stop, .arm 110]) ∧
    block? (exec .expRr (on (row .readRecovery 0x00 7 .read .bit1 false false 110 110 true) [0])) =
      some (row .readRecovery 0x40 6 .read .bit0 false true 0 110 false) := by
  decide +kernel

/-! ## Hazards: V18, V20, V22 -/

/-- V18: the mailbox emptied in a byte read inserts a 0. -/
theorem test_lost_sample : accumulate .notReady 0x60 = 0x60 ∧ accumulate .bit1 0x60 = 0xE0 := by decide

/-- V20: a reserved opcode changes nothing and answers 0x00. -/
theorem test_reserved_opcode :
    seen (step (listing [.command 0x900] (on writing []))) = some (writing, some 0x00, []) := by
  decide

/-- V22: a breach leaves `REM` stale. -/
theorem test_stale_rem :
    block? (step (listing [.command 0x100] (on (row .write1Recovery 0x3F 5 .write .notReady false true 5 128 false) []))) =
      some (row .presenceDriveLow 0x3F 5 .write .notReady true true 0 960 false) := by
  decide

/-! ## The sequencer: E5 to E8 -/

/-- E7: `[0]=0x50, [1]=0x05` decode to 0x0550 = 1360. -/
theorem test_temperature :
    decodeTemperature ((Vector.replicate 9 0).set 0 0x50 |>.set 1 0x05) = 0x0550 ∧ (0x0550 : BitVec 16) = 1360 := by
  decide

/-- E5: the second `Configure()` is a no-op. -/
theorem test_configure_twice :
    configureCall (configureCall Sequencer.initial) = configureCall Sequencer.initial ∧
    (configureCall Sequencer.initial).configuring = true := by
  decide

/-- E6: `StartAcquisition()` is rejected if not configured. -/
theorem test_startAcquisition_rejected : startAcquisitionCall Sequencer.initial = Sequencer.initial := by decide

/-- E8: an expired timeout takes a running acquisition to `ErrorFound`; the temperature and its ready flag stay. -/
theorem test_timeout :
    (let q := serviceTimeout { Sequencer.initial with
                                 state := .acquiringScratchpad, timeoutExpired := true, temperature := 0x0550 };
      q.state = .errorFound ∧ q.temperatureReady = false ∧ q.temperature = 0x0550) := by
  decide

/-- R129: a tick counts against an accepted acquisition, and not against a sequencer at rest. -/
theorem test_countTick :
    (countTick { Sequencer.initial with acquiring := true }).waited = 1 ∧
    (countTick Sequencer.initial).waited = 0 := by
  decide

/-! ## States and operands that meet the hypotheses of the statements -/

/-- The first hypothesis of every frame, and of `BusStateTransitions`: each instruction answers a next state, on a write
and on a read with bits to go, and on the last bit of each. -/
theorem meets_the_frames :
    (samples.all fun i =>
      (next? (exec i (on writing [1]))).isSome && (next? (exec i (on lastWrite [0]))).isSome &&
        (next? (exec i (on reading [1]))).isSome && (next? (exec i (on lastRead [0]))).isSome) = true ∧
    writing.rem ≠ 0 ∧ lastWrite.rem = 0 ∧ reading.rem ≠ 0 ∧ lastRead.rem = 0 := by
  decide +kernel

theorem meets_CommandWordsDecodeByOpcode :
    (encode .readBit = .command 0x400 ∧ (∀ v, Instr.readBit ≠ .writeByte v) ∧ ∀ b, Instr.readBit ≠ .writeBit b) ∧
    (encode (.writeBit 1) = .command 0x301 ∧ ∀ v, Instr.writeBit 1 ≠ .writeByte v) :=
  ⟨⟨by decide, nofun, nofun⟩, by decide, nofun⟩

/-- An initiating command in `Idle`; one outside it in a run that refuses nothing; a harmless one in a run that does. -/
theorem meets_StepRunsDecodedCommand :
    (decode (.command 0x100) = .ok .detectPresence ∧ breaksIdleDuty .detectPresence (on s0 []) = false) ∧
    (decode (.command 0x5FF) = .ok (.writeByte 0xFF) ∧ (on writing []).contract = false) ∧
    (decode (.command 0x7FF) = .ok .isIdle ∧
      breaksIdleDuty .isIdle { on writing [] with contract := true } = false) := by
  decide

theorem meets_StepRunsHandlerArmOfBusState :
    decode (.handler writing.bs.code) = .ok .expW0r ∧ writing.pend = true ∧ (on writing []).inbox = [] ∧
    decode (.handler s0.bs.code) = .ok .expIdle ∧ s0.pend = false ∧
    (listing [.expire] (on s0 [])).inbox = .expire :: [] := by
  decide

theorem meets_StepRunsTimerPortWord :
    decode (.timer 0x20001) = .ok (.arm 1) ∧ decode (.timer 0x2FFFF) = .ok (.arm 0xFFFF) ∧
    decode (.timer 0x0FFFF) = .error .timerNoOperation ∧
    decode (.timer 0x3FFFF) = .error .reservedTimerOperation := by
  decide

/-- The three clauses: halted, on the last tick, before it; and both ways a tick comes. -/
theorem meets_TickCountsAndFires :
    s0.run = false ∧ s0.pend = false ∧ (on s0 []).inbox = [] ∧
    (let k := row .write0Recovery 0 0 .write .notReady false true 19 20 false; k.cnt + 1 = k.cmp ∧ k.run = true) ∧
    (let k := row .write0Recovery 0 0 .write .notReady false true 18 20 false; k.cnt + 1 ≠ k.cmp ∧ k.run = true) ∧
    (listing [.tick] (on writing [])).inbox = .tick :: [] := by
  decide

theorem meets_ReservedOpcodeChangesNothing :
    0x9 ≤ (0x9 : BitVec 4).toNat ∧ 0x9 ≤ (0xF : BitVec 4).toNat ∧
    (listing [.command (commandWord 0xF 0xFF)] State.reset).inbox = .command (commandWord 0xF 0xFF) :: [] ∧
    State.reset.contract = false ∧ { State.reset with contract := true }.contract = true := by
  decide

theorem meets_ResetSetsTheTenRegisters :
    (let rest := [.tick, .command 0x000, .expire, .command 0x2FF, .api .configure, .reset];
      (listing (.reset :: rest) (on writing [])).inbox = .reset :: rest ∧ rest.all Input.armsNothing = true) := by
  decide

/-- The refusal itself, with every hypothesis of `InitiatingOutsideIdleIsABreach`. -/
theorem meets_InitiatingOutsideIdleIsABreach :
    decode (.command 0x400) = .ok .readBit ∧ initiates .readBit = true ∧ writing.bs ≠ .idle ∧
    refusal? (step { listing [.command 0x400] (on writing []) with contract := true }) = some .initiatedWhileBusy := by
  decide

theorem meets_NoMoveOfAnAgentStops :
    (let s := listing [.command 0xFFF, .expire, .reset, .schedulerTick] (on writing []);
      s.transportOnly = true ∧ s.contract = false) := by
  decide

theorem meets_ArmedTimerFires :
    (1 : Ticks) ≠ 0 ∧ 0 < (1 : Ticks).toNat ∧ (1 : Ticks).toNat ≤ 1 ∧
    (0xFFFF : Ticks) ≠ 0 ∧ 65534 < (0xFFFF : Ticks).toNat ∧ (0xFFFF : Ticks).toNat ≤ 65535 := by
  decide

theorem meets_ArmResult : (1 : Ticks) ≠ 0 ∧ (0xFFFF : Ticks) ≠ 0 := by decide

/-- A released line, and a driven one. -/
theorem meets_the_samples :
    s0.owdrv = false ∧ (row .presenceSample 0 0 .write .notReady true false 140 140 true).owdrv = true := by
  decide

/-- A listed answer, and a free one. -/
theorem meets_PresenceSequenceRunsToIdle :
    ((on s0 [0, 1]).inbox = [] ∧ s0.bs = .idle ∧ (on s0 [0, 1]).answers false 0 [1] 0) ∧
    ((on s0 []).inbox = [] ∧ (on s0 []).answers false (Config.lineLevel 0) [] 1) :=
  ⟨⟨rfl, rfl, .inl ⟨rfl, rfl⟩⟩, rfl, .inr ⟨rfl, rfl, rfl, rfl⟩⟩

theorem meets_StandaloneBit : (on s0 []).inbox = [] ∧ s0.rem = 0 ∧ (on lastRead [1]).inbox = [] ∧ lastRead.rem = 0 := by
  decide

theorem meets_the_recoveries : (7 : RemCount) ≠ 0 ∧ (1 : RemCount) ≠ 0 ∧ lastWrite.rem = 0 := by decide

/-- V15's samples, and one more level after them. -/
theorem meets_the_byte_sequences :
    (on s0 [1, 0, 1, 0, 0, 1, 0, 1, 1]).inbox = [] ∧
    levels 8 [1, 0, 1, 0, 0, 1, 0, 1, 1] 0 = busBits 0xA5 := by
  decide

theorem meets_the_dutiful_invariant : writing.DutifulInv ∧ lastRead.DutifulInv ∧ s0.DutifulInv := by decide

/-- V22's state, whose stale `REM` only a breach leaves. -/
theorem meets_the_invariant_of_any_host :
    (row .presenceDriveLow 0x3F 5 .write .notReady true true 0 960 false).AnyHostInv ∧
    ¬(row .presenceDriveLow 0x3F 5 .write .notReady true true 0 960 false).DutifulInv := by
  decide

/-- A step of each of the two invariant statements: a breach run as written, and a dutiful command. -/
theorem meets_the_invariant_steps :
    (next? (step (listing [.command 0x400] (on writing [1])))).isSome = true ∧
    (next? (step { listing [.command 0x400] (on s0 [1]) with contract := true })).isSome = true ∧
    (listing [.command 0x400] (on s0 [1])).transportOnly = true := by
  decide +kernel

theorem meets_QuiescentExactlyInIdle :
    s0.AnyHostInv ∧ s0.quiescent = true ∧ writing.AnyHostInv ∧ writing.pend = true ∧ (on s0 []).inbox = [] := by
  decide

/-- A presence sequence, a bit and a byte outstanding. -/
theorem meets_EveryOperationReachesIdle :
    (row .presenceDriveLow 0 0 .write .notReady true true 0 960 false).AnyHostInv ∧ lastRead.AnyHostInv ∧
    (row .write1Recovery 0xFF 7 .write .notReady false true 0 128 false).AnyHostInv := by
  decide

theorem meets_SequencerNeverBreaksTheIdleDuty :
    (hosting Sequencer.initial [.schedulerTick]).inbox = .schedulerTick :: [] ∧
    (hosting Sequencer.initial [.api .configure]).inbox = .api .configure :: [] := by
  decide

/-- With the bus busy, in `ErrorFound`, and parked in `SkipAddressing` with no flag. -/
theorem meets_SequencerWaitsForIdle :
    (writing.bs ≠ .idle ∧ Sequencer.initial.state ≠ .errorFound) ∧
    (hosting { Sequencer.initial with state := .errorFound } []).seq.state = .errorFound ∧
    (let q := { Sequencer.initial with state := .skipAddressing };
      q.timeoutExpired = false ∧ q.configuring = false ∧ q.acquiring = false ∧ q.conversionFinished = false) := by
  decide

theorem meets_SequencerInitializeAndTimeout :
    (hosting Sequencer.initial [.api .seqInit]).inbox = .api .seqInit :: [] ∧
    (hosting Sequencer.initial [.acquisitionTimeout]).inbox = .acquisitionTimeout :: [] ∧
    (let s := hosting { Sequencer.initial with state := .convertTemperature, timeoutExpired := true } [];
      s.block.bs = .idle ∧ s.seq.timeoutExpired = true ∧ s.seq.state ≠ .errorFound ∧
      (next? (seqTask s)).map (·.seq.state) = some .errorFound) := by
  decide

/-- The last clause of `SequencerInitializeAndTimeout`: the tick with which the bound has passed, the bus busy. -/
theorem meets_the_acquisition_window :
    ∃ s u, s.inbox = [.schedulerTick] ++ [] ∧ (∀ c, Input.api c ∉ [Input.schedulerTick]) ∧
      s.seq.configuring = false ∧ (s.seq.acquiring = true ∨ s.seq.state ≠ .idle) ∧
      s.seq.state ∉ [.configurePre, .configureAlarmHigh, .configureAlarmLow, .configureResolution] ∧
      0 < [Input.schedulerTick].count .schedulerTick ∧
      Config.acqTimeoutTicks ≤ s.seq.waited + [Input.schedulerTick].count .schedulerTick ∧
      steps 1 s = .next u :=
  ⟨{ on writing [] with
      inbox := [.schedulerTick]
      seq := { Sequencer.initial with acquiring := true, waited := Config.acqTimeoutTicks } },
    _, rfl, by simp, rfl, .inl rfl, by decide, by decide, Nat.le_add_right _ _, rfl⟩

/-- The four clauses of `SequencerPresenceRows`. -/
theorem meets_SequencerPresenceRows :
    (let s := hosting { Sequencer.initial with configuring := true } [];
      s.block.bs = .idle ∧ s.seq.timeoutExpired = false ∧ s.seq.state = .idle ∧ s.seq.configuring = true) ∧
    (Sequencer.initial.state = .idle ∧ Sequencer.initial.configuring = false ∧
      Sequencer.initial.acquiring = false) ∧
    (let s := { hosting { Sequencer.initial with state := .detectPresence } [] with
                block := { s0 with last := .presenceOk } };
      s.block.bs = .idle ∧ s.seq.state = .detectPresence ∧ s.seq.detectOwed = false ∧ s.block.last = .presenceOk) ∧
    (let s := hosting { Sequencer.initial with state := .detectPresence } [];
      s.block.bs = .idle ∧ s.seq.detectOwed = false ∧ s.block.last ≠ .presenceOk) := by
  decide

/-- The first three clauses of `SequencerCommandRows`; the other three are their state alone. -/
theorem meets_SequencerCommandRows :
    (let q := { Sequencer.initial with state := .skipAddressing, configuring := true };
      q.state = .skipAddressing ∧ q.configuring = true ∧ q.timeoutExpired = false) ∧
    (let q := { Sequencer.initial with state := .skipAddressing, acquiring := true, conversionFinished := true };
      q.configuring = false ∧ q.acquiring = true) ∧
    (let q := { Sequencer.initial with state := .skipAddressing, conversionFinished := true };
      q.configuring = false ∧ q.acquiring = false ∧ q.conversionFinished = true) ∧
    (hosting { Sequencer.initial with state := .configurePre } []).seq.state = .configurePre ∧
    (hosting { Sequencer.initial with state := .configureAlarmHigh } []).seq.state = .configureAlarmHigh ∧
    (hosting { Sequencer.initial with state := .configureAlarmLow } []).seq.state = .configureAlarmLow ∧
    State.reset.block.bs = .idle := by
  decide

/-- The clauses of `SequencerConversionRows`: a poll that reads 1 and one that reads 0, and the owed command. -/
theorem meets_SequencerConversionRows :
    (let s := hosting { Sequencer.initial with state := .convertTemperature, acquiring := true } [];
      (next? (seqTask { s with line := [1] })).map (·.seq.detectOwed) = some true ∧
      (next? (seqTask { s with line := [0] })).map (·.seq.state) = some .convertTemperature) ∧
    (let q := { Sequencer.initial with state := .detectPresence, detectOwed := true };
      q.timeoutExpired = false ∧ q.detectOwed = true) ∧
    (hosting { Sequencer.initial with state := .configureResolution } []).seq.state = .configureResolution := by
  decide +kernel

/-- The clauses of `SequencerReadRows`, at the eighth byte and at the ninth. -/
theorem meets_SequencerReadRows :
    (let q := { Sequencer.initial with state := .acquiringScratchpad, stored := 7 };
      q.state = .acquiringScratchpad ∧ q.stored < 8 ∧ q.timeoutExpired = false) ∧
    (let q := { Sequencer.initial with state := .acquiringScratchpad, stored := 8 };
      q.stored = 8 ∧ (next? (seqTask (hosting q []))).map (·.seq.temperatureReady) = some true) ∧
    (hosting { Sequencer.initial with state := .readScratchpadCmd } []).seq.state = .readScratchpadCmd := by
  decide

/-- The clauses of `ConfigureIsIdempotent` and `StartAcquisitionIsRejectedWhenBusy`. -/
theorem meets_the_api_statements :
    Sequencer.initial.configured = false ∧ Sequencer.initial.configuring = false ∧
    (configureCall Sequencer.initial).configuring = true ∧
    (let q := { Sequencer.initial with configured := true };
      q.configured = true ∧ q.configuring = false ∧ q.acquiring = false ∧ q.state = .idle ∧
        (startAcquisitionCall q).acquiring = true) ∧
    (hosting Sequencer.initial [.api .startAcquisition]).inbox = .api .startAcquisition :: [] ∧
    (hosting Sequencer.initial [.api .getTemperature]).inbox = .api .getTemperature :: [] ∧
    (hosting Sequencer.initial [.api .isTemperatureReady]).inbox = .api .isTemperatureReady :: [] := by
  decide

end Sys2Proof.Tests
end

section
/-! The durations of a write slot by the bit sent (43_bit_ops.md R90), literals in `simp`'s normal form; and O1. -/

namespace Sys2Proof.Machine

@[simp] theorem writeLowTicks_zero : writeLowTicks 0#1 = 120 := rfl

@[simp] theorem writeLowTicks_one : writeLowTicks 1#1 = 12 := rfl

@[simp] theorem writeRecoveryTicks_zero : writeRecoveryTicks 0#1 = 20#16 := rfl

@[simp] theorem writeRecoveryTicks_one : writeRecoveryTicks 1#1 = 128#16 := rfl

/-- Both bits take the same slot time, though they divide it differently between pulse and recovery. -/
theorem writeSlot_ticks (b : Bit) : writeLowTicks b + (writeRecoveryTicks b).toNat = 140 := by
  obtain rfl | rfl := BitVec.eq_zero_or_eq_one b
  · simp
  · simp

/-- Settles O1: each parameter is its microseconds doubled, and a write slot's two parts are added by `writeSlot_ticks`. -/
theorem phaseDurationsInTicks : Obligations.PhaseDurationsInTicks :=
  ⟨rfl, rfl, rfl, rfl, rfl, rfl, rfl, rfl, rfl, rfl, writeSlot_ticks⟩

end Sys2Proof.Machine
end

section
/-! SUPPORT. What an instruction does, said once for all of them: the next state as a function of the state before and
of the level the line answers, if it is sampled. `exec_eq_after` ties it to `exec`; the frames, the graph of `BS` and
the invariants below are read off it. -/

namespace Sys2Proof.Machine

/-! ## The registers an instruction leaves -/

/-- A phase begins: its bus state, and the timer armed afresh with its duration (40_timer.md R64). -/
def Block.startPhase (bs : BusState) (n : Ticks) (k : Block) : Block :=
  { k with bs := bs, cnt := 0, cmp := n, run := true, pend := false }

/-- A write slot that sends c (43_bit_ops.md R90). -/
def Block.writeSlot (c : Bit) (k : Block) : Block :=
  { k with owdrv := false }.startPhase (writeRecoveryState c) (writeRecoveryTicks c)

/-- A read slot that samples b (43_bit_ops.md R91). -/
def Block.readSlot (b : Bit) (k : Block) : Block :=
  { k with owdrv := false, last := bitMailbox b }.startPhase .readRecovery (ticks Config.tRdRec)

/-- An operation ends in its handler run (42_presence.md R83, 44_byte_ops.md R102, R103). -/
def Block.finish (k : Block) : Block := { k with bs := .idle, pend := false }

/-- A write recovery: the end, or the slot of the next bit (44_byte_ops.md R102). -/
def Block.writeRecovery (k : Block) : Block :=
  if k.rem = 0 then k.finish
  else { k with rem := k.rem - 1, val := shiftRight k.val }.writeSlot (nextBit (shiftRight k.val))

/-- A read recovery: the end, or the slot of the next bit, which samples b (44_byte_ops.md R103). -/
def Block.readRecovery (b : Bit) (k : Block) : Block :=
  if k.rem = 0 then { k with val := accumulate k.last k.val, last := .notReady }.finish
  else { k with rem := k.rem - 1, val := shiftRight (accumulate k.last k.val) }.readSlot b

/-- The ten registers after an instruction that samples b, if it samples. -/
def Block.after (i : Instr) (b : Bit) (k : Block) : Block :=
  match i with
  | .init =>
    { k with bs := .idle, val := 0x00, rem := 0, dir := .write, last := .notReady, owdrv := false,
             run := false, pend := false }
  | .detectPresence => { k with owdrv := true }.startPhase .presenceDriveLow (ticks Config.tPresLow)
  | .getPresence => { k with last := .notReady }
  | .writeBit c => k.writeSlot c
  | .readBit => k.readSlot b
  | .writeByte v => { k with val := v, rem := 7, dir := .write }.writeSlot (nextBit v)
  | .startReadByte => { k with val := 0x00, rem := 7, dir := .read }.readSlot b
  | .isIdle => k
  | .getLastByte => k
  | .arm n => k.startPhase k.bs n
  | .stop => { k with run := false, pend := false }
  | .expIdle => { k with pend := false }
  | .expPdl => { k with owdrv := false }.startPhase .presenceSample (ticks Config.tPresSample)
  | .expPs => { k with last := presenceMailbox b }.startPhase .presenceRecovery (ticks Config.tPresRec)
  | .expPr => k.finish
  | .expW0r => k.writeRecovery
  | .expW1r => k.writeRecovery
  | .expRr => k.readRecovery b

/-! ## The two ways of a recovery, and what every slot and recovery leaves -/

theorem Block.writeRecovery_last {k : Block} (h : k.rem = 0) : k.writeRecovery = k.finish := if_pos h

theorem Block.writeRecovery_more {k : Block} (h : k.rem ≠ 0) :
    k.writeRecovery =
      { k with rem := k.rem - 1, val := shiftRight k.val }.writeSlot (nextBit (shiftRight k.val)) :=
  if_neg h

theorem Block.readRecovery_last {k : Block} (b : Bit) (h : k.rem = 0) :
    k.readRecovery b = { k with val := accumulate k.last k.val, last := .notReady }.finish :=
  if_pos h

theorem Block.readRecovery_more {k : Block} (b : Bit) (h : k.rem ≠ 0) :
    k.readRecovery b = { k with rem := k.rem - 1, val := shiftRight (accumulate k.last k.val) }.readSlot b :=
  if_neg h

@[simp] theorem Block.writeRecovery_dir (k : Block) : k.writeRecovery.dir = k.dir := by
  unfold Block.writeRecovery; split <;> rfl

@[simp] theorem Block.writeRecovery_mailbox (k : Block) : k.writeRecovery.last = k.last := by
  unfold Block.writeRecovery; split <;> rfl

@[simp] theorem Block.readRecovery_dir (b : Bit) (k : Block) : (k.readRecovery b).dir = k.dir := by
  unfold Block.readRecovery; split <;> rfl

/-- The bus state of a write slot, by the bit it sends (43_bit_ops.md R90). -/
theorem Block.writeSlot_bs (c : Bit) (k : Block) :
    (c = 0 → (k.writeSlot c).bs = .write0Recovery) ∧ (c = 1 → (k.writeSlot c).bs = .write1Recovery) :=
  ⟨by rintro rfl; rfl, by rintro rfl; rfl⟩

/-- The bit to send after a shift is bit 1 of the byte before it (44_byte_ops.md R102). -/
theorem nextBit_shiftRight (v : Byte) : nextBit (shiftRight v) = v.extractLsb' 1 1 := by
  ext i hi
  simp [nextBit, shiftRight]

/-- The edges of `BS` out of a write recovery (44_byte_ops.md R102). -/
theorem Block.writeRecovery_bs (k : Block) :
    (k.rem = 0 → k.writeRecovery.bs = .idle) ∧
      (k.rem ≠ 0 → (k.val.extractLsb' 1 1 = 0 → k.writeRecovery.bs = .write0Recovery) ∧
        (k.val.extractLsb' 1 1 = 1 → k.writeRecovery.bs = .write1Recovery)) := by
  refine ⟨fun hr => ?_, fun hr => ?_⟩
  · rw [Block.writeRecovery_last hr]; rfl
  · rw [Block.writeRecovery_more hr, ← nextBit_shiftRight]; exact Block.writeSlot_bs _ _

/-- The edges of `BS` out of a read recovery (44_byte_ops.md R103). -/
theorem Block.readRecovery_bs (b : Bit) (k : Block) :
    (k.rem = 0 → (k.readRecovery b).bs = .idle) ∧ (k.rem ≠ 0 → (k.readRecovery b).bs = .readRecovery) := by
  refine ⟨fun hr => ?_, fun hr => ?_⟩
  · rw [Block.readRecovery_last b hr]; rfl
  · rw [Block.readRecovery_more b hr]; rfl

/-! ## What an instruction does beside the registers -/

/-- The response of a command (30_encoding.md R44). -/
def Block.response (i : Instr) (b : Bit) (k : Block) : Option Byte :=
  match i with
  | .init | .detectPresence | .writeBit _ | .writeByte _ | .startReadByte => some 0x00
  | .getPresence => some (boolResponse (presenceAnswer Config.presenceOkAliasesBit0 k.last))
  | .readBit => some (levelResponse b)
  | .isIdle => some (boolResponse (k.bs == .idle))
  | .getLastByte => some k.val
  | .arm _ | .stop | .expIdle | .expPdl | .expPs | .expPr | .expW0r | .expW1r | .expRr => none

/-- Whether the line is sampled (60_exceptions.md R151). -/
def Block.samples (i : Instr) (k : Block) : Bool :=
  match i with
  | .readBit | .startReadByte | .expPs => true
  | .expRr => k.rem != 0
  | .init | .detectPresence | .getPresence | .writeBit _ | .writeByte _ | .isIdle | .getLastByte | .arm _ | .stop
  | .expIdle | .expPdl | .expPr | .expW0r | .expW1r => false

/-- Whether the block drives the line when it samples it: a read slot has released it, EXP.PS has not touched it. -/
def Block.drivesAtSample (i : Instr) (k : Block) : Bool :=
  match i with
  | .expPs => k.owdrv
  | .init | .detectPresence | .getPresence | .writeBit _ | .readBit | .writeByte _ | .startReadByte | .isIdle
  | .getLastByte | .arm _ | .stop | .expIdle | .expPdl | .expPr | .expW0r | .expW1r | .expRr => false

/-- The ticks that pass inside the step (43_bit_ops.md R92). -/
def Block.busyTicks (i : Instr) (k : Block) : Nat :=
  match i with
  | .writeBit c => writeLowTicks c
  | .writeByte v => writeLowTicks (nextBit v)
  | .readBit | .startReadByte => Config.tRdInit + Config.tRdSample
  | .expW0r | .expW1r => if k.rem = 0 then 0 else writeLowTicks (nextBit (shiftRight k.val))
  | .expRr => if k.rem = 0 then 0 else Config.tRdInit + Config.tRdSample
  | .init | .detectPresence | .getPresence | .isIdle | .getLastByte | .arm _ | .stop | .expIdle | .expPdl | .expPs
  | .expPr => 0

/-- The events traced (00_scope.md section 8). -/
def Block.events (i : Instr) (b : Bit) (k : Block) : List TraceEvent :=
  match i with
  | .init => [.stop, .rl]
  | .detectPresence => [.dl, .stop, .arm (ticks Config.tPresLow)]
  | .writeBit c => writeSlotTrace c
  | .writeByte v => writeSlotTrace (nextBit v)
  | .readBit | .startReadByte => readSlotTrace b
  | .getPresence | .isIdle | .getLastByte => []
  | .arm n => [.arm n]
  | .stop => [.stop]
  | .expIdle | .expPr => [.exp]
  | .expPdl => [.exp, .rl, .stop, .arm (ticks Config.tPresSample)]
  | .expPs => [.exp, .sm b, .stop, .arm (ticks Config.tPresRec)]
  | .expW0r | .expW1r => .exp :: if k.rem = 0 then [] else writeSlotTrace (nextBit (shiftRight k.val))
  | .expRr => .exp :: if k.rem = 0 then [] else readSlotTrace b

/-- The state after an instruction, where the environment's next answer is b and leaves l and d. -/
def State.after (i : Instr) (b : Bit) (l : List Bit) (d : Nat) (s : State) : State :=
  { s with
    block := s.block.after i b
    rsp := (s.block.response i b).or s.rsp
    line := if s.block.samples i then l else s.line
    draws := if s.block.samples i then d else s.draws
    now := s.now + s.block.busyTicks i
    trace := s.trace ++ s.block.events i b }

section after
variable (i : Instr) (b : Bit) (l : List Bit) (d : Nat) (s : State)

@[simp] theorem after_block : (s.after i b l d).block = s.block.after i b := rfl
@[simp] theorem after_rsp : (s.after i b l d).rsp = (s.block.response i b).or s.rsp := rfl
@[simp] theorem after_seq : (s.after i b l d).seq = s.seq := rfl
@[simp] theorem after_ret : (s.after i b l d).ret = s.ret := rfl
@[simp] theorem after_inbox : (s.after i b l d).inbox = s.inbox := rfl
@[simp] theorem after_line : (s.after i b l d).line = if s.block.samples i then l else s.line := rfl
@[simp] theorem after_draws : (s.after i b l d).draws = if s.block.samples i then d else s.draws := rfl
@[simp] theorem after_now : (s.after i b l d).now = s.now + s.block.busyTicks i := rfl
@[simp] theorem after_trace : (s.after i b l d).trace = s.trace ++ s.block.events i b := rfl
@[simp] theorem after_contract : (s.after i b l d).contract = s.contract := rfl

end after

/-! ## The environment's answer -/

/-- The environment answers every sample. -/
theorem exists_answers (driving : Bool) (s : State) : ∃ b l d, s.answers driving b l d := by
  obtain ⟨b, l, d, h, _⟩ := lineAnswer_eq (s.onBlock fun k => { k with owdrv := driving })
  exact ⟨b, l, d, h⟩

section answer
variable {s : State} {b : Bit} {l : List Bit} {d : Nat}

theorem lineAnswer_of_answers (h : s.answers s.block.owdrv b l d) :
    lineAnswer s = (b, { s with line := l, draws := d }) := by
  obtain ⟨b', l', d', h', e⟩ := lineAnswer_eq s
  obtain ⟨rfl, rfl, rfl⟩ := answers_unique h h'
  exact e

theorem readBitBody_of_answers (h : s.answers false b l d) :
    readBitBody s =
      (b, { s with block := s.block.readSlot b
                   now := s.now + (Config.tRdInit + Config.tRdSample)
                   line := l
                   draws := d
                   trace := s.trace ++ readSlotTrace b }) := by
  obtain ⟨b', l', d', h', e⟩ := readBitBody_eq s
  obtain ⟨rfl, rfl, rfl⟩ := answers_unique h h'
  exact e

end answer

/-! ## The next state of every instruction -/

section next
variable {s : State} {b : Bit} {l : List Bit} {d : Nat}

theorem writeBitBody_eq_writeSlot (c : Bit) (s : State) :
    writeBitBody c s =
      { s with block := s.block.writeSlot c, now := s.now + writeLowTicks c, trace := s.trace ++ writeSlotTrace c } :=
  writeBitBody_eq c s

/-- A state is the one an instruction leaves if its trace is, and all the rest. -/
theorem next_eq_after {i : Instr} {t : State} (htrace : t.trace = s.trace ++ s.block.events i b)
    (hrest : t = { s.after i b l d with trace := t.trace }) : (.next t : Result) = .next (s.after i b l d) :=
  congrArg _ (hrest.trans (by rw [htrace]; rfl))

/-- Both write recoveries, the end of the operation and the next slot alike. -/
theorem writeRecoveryArm_after_enterHandler :
    writeRecoveryArm (enterHandler s) = s.after .expW0r b l d := by
  by_cases h : s.block.rem = 0#3
  · rw [writeRecoveryArm_last (by exact h)]
    simp [h, enterHandler, State.onBlock, emit, State.after, Block.after, Block.writeRecovery, Block.finish,
      Block.response, Block.samples, Block.busyTicks, Block.events]
  · rw [writeRecoveryArm_more (by exact h), writeBitBody_eq_writeSlot]
    simp [h, enterHandler, State.onBlock, emit, State.after, Block.after, Block.writeRecovery, Block.writeSlot,
      Block.startPhase, Block.response, Block.samples, Block.busyTicks, Block.events]

theorem readRecoveryArm_after_enterHandler (ha : s.answers false b l d) :
    readRecoveryArm (enterHandler s) = s.after .expRr b l d := by
  by_cases h : s.block.rem = 0#3
  · rw [readRecoveryArm_last (by exact h)]
    simp [h, enterHandler, State.onBlock, emit, State.after, Block.after, Block.readRecovery, Block.finish,
      Block.response, Block.samples, Block.busyTicks, Block.events]
  · rw [readRecoveryArm_more (by exact h), readBitBody_of_answers (by exact ha)]
    simp [h, enterHandler, State.onBlock, emit, State.after, Block.after, Block.readRecovery, Block.readSlot,
      Block.startPhase, Block.response, Block.samples, Block.busyTicks, Block.events]

theorem execExpPs_eq_after (ha : s.answers s.block.owdrv b l d) : execExpPs s = .next (s.after .expPs b l d) := by
  rw [execExpPs, sampleLevel, lineAnswer_of_answers (s := enterHandler s) (by exact ha)]
  exact next_eq_after (by simp [stopThenArm, timerStop, timerArm, enterHandler, Block.events]) rfl

/-- What every instruction but ARM 0 does: the meaning of `exec` in one equation. -/
theorem exec_eq_after {i : Instr} (hi : i ≠ .arm 0) (ha : s.answers (s.block.drivesAtSample i) b l d) :
    exec i s = .next (s.after i b l d) := by
  cases i with
  | init => exact next_eq_after (List.append_assoc _ _ _) rfl
  | detectPresence =>
    exact next_eq_after (by simp [stopThenArm, timerStop, timerArm, driveLow, Block.events]) rfl
  | getPresence => exact next_eq_after (List.append_nil _).symm rfl
  | writeBit c => rw [exec, execWriteBit, writeBitBody_eq_writeSlot]; rfl
  | readBit => rw [exec, execReadBit, readBitBody_of_answers ha]; rfl
  | writeByte v => rw [exec, execWriteByte, writeBitBody_eq_writeSlot]; rfl
  | startReadByte => rw [exec, execStartReadByte, readBitBody_of_answers (by exact ha)]; rfl
  | isIdle => exact next_eq_after (List.append_nil _).symm rfl
  | getLastByte => exact next_eq_after (List.append_nil _).symm rfl
  | arm n => rw [exec, execArm, if_neg fun h => hi (congrArg Instr.arm h)]; rfl
  | stop => rfl
  | expIdle => rfl
  | expPdl =>
    exact next_eq_after (by simp [stopThenArm, timerStop, timerArm, release, enterHandler, Block.events]) rfl
  | expPs => exact execExpPs_eq_after ha
  | expPr => rfl
  | expW0r => exact congrArg _ writeRecoveryArm_after_enterHandler
  | expW1r => exact congrArg _ (writeRecoveryArm_after_enterHandler (b := b))
  | expRr => exact congrArg _ (readRecoveryArm_after_enterHandler ha)

/-- A next state is the one of `exec_eq_after`, for the answer that the environment gives. -/
theorem exec_eq_next {i : Instr} {t : State} (h : exec i s = .next t) :
    ∃ b l d, s.answers (s.block.drivesAtSample i) b l d ∧ t = s.after i b l d := by
  obtain ⟨b, l, d, ha⟩ := exists_answers (s.block.drivesAtSample i) s
  have hi : i ≠ .arm 0 := by rintro rfl; cases h
  rw [exec_eq_after hi ha] at h
  exact ⟨b, l, d, ha, (Host.Outcome.next.inj h).symm⟩

/-- What an instruction makes of the ten registers. -/
theorem exec_block {i : Instr} {t : State} (h : exec i s = .next t) : ∃ b, t.block = s.block.after i b := by
  obtain ⟨b, l, d, _, rfl⟩ := exec_eq_next h
  exact ⟨b, rfl⟩

end next

end Sys2Proof.Machine
end

section
/-! The frames and the graph of `BS` (spec/10_state.md), read off `exec_eq_after`: O40 to O45. -/

namespace Sys2Proof.Machine

/-! ## Frames of the registers -/

/-- Settles O40, instruction by instruction; a recovery arm by whether bits remain. -/
theorem pendingShiftFrame : Obligations.PendingShiftFrame := by
  refine ⟨fun i s t h hi => ?_, fun i s t h hi => ?_⟩
  · obtain ⟨b, hb⟩ := exec_block h
    rw [hb]
    rcases hi with rfl | rfl | ⟨c, rfl⟩ | rfl | rfl | rfl | ⟨n, rfl⟩ | rfl | rfl | rfl | rfl | rfl <;>
      exact ⟨rfl, rfl, rfl⟩
  · obtain ⟨b, hb⟩ := exec_block h
    rw [hb]
    have hw (hr : s.block.rem = 0) :
        s.block.writeRecovery.rem = 0 ∧ s.block.writeRecovery.val = s.block.val := by
      rw [Block.writeRecovery_last hr]; exact ⟨hr, rfl⟩
    have hread (hr : s.block.rem = 0) : (s.block.readRecovery b).rem = 0 := by
      rw [Block.readRecovery_last b hr]; exact hr
    rcases hi with rfl | rfl | rfl
    · exact ⟨Block.writeRecovery_dir _, fun hr => (hw hr).imp_right fun hv _ => hv⟩
    · exact ⟨Block.writeRecovery_dir _, fun hr => (hw hr).imp_right fun hv _ => hv⟩
    · exact ⟨Block.readRecovery_dir b _, fun hr => ⟨hread hr, fun hn => absurd rfl hn⟩⟩

/-- Settles O41, instruction by instruction; no write slot and no write recovery touches the mailbox. -/
theorem mailboxFrame : Obligations.MailboxFrame := by
  intro i s t h hi
  obtain ⟨b, hb⟩ := exec_block h
  rw [hb]
  rcases hi with rfl | ⟨c, rfl⟩ | ⟨v, rfl⟩ | rfl | rfl | ⟨n, rfl⟩ | rfl | rfl | rfl | rfl | rfl | rfl <;>
    simp only [Block.after, Block.startPhase, Block.writeSlot, Block.finish, Block.writeRecovery_mailbox]

/-- Settles O42; of a recovery arm with no bit left, only the end of the operation. -/
theorem lineDriverAndTimerFrame : Obligations.LineDriverAndTimerFrame := by
  refine ⟨fun i s t h hi => ?_, fun i s t h hi => ?_, fun i s t h hi => ?_, fun s t h => ?_, fun i s t h hr hi => ?_⟩
  · obtain ⟨b, l, d, _, rfl⟩ := exec_eq_next h
    rcases hi with rfl | rfl | rfl <;> exact ⟨rfl, rfl, rfl, rfl, rfl, rfl, List.append_nil _⟩
  all_goals
    obtain ⟨b, hb⟩ := exec_block h
    rw [hb]
  · rcases hi with rfl | rfl | rfl | rfl
    · exact ⟨rfl, rfl, fun hn => absurd rfl hn⟩
    all_goals exact ⟨rfl, rfl, fun _ => rfl⟩
  · rcases hi with ⟨n, rfl⟩ | rfl | rfl <;> exact ⟨rfl, rfl⟩
  · rfl
  · rcases hi with rfl | rfl | rfl <;>
      simp only [Block.after, Block.writeRecovery_last hr, Block.readRecovery_last b hr] <;>
      exact ⟨rfl, rfl, rfl, rfl⟩

/-! ## The graph of `BS` -/

/-- Settles O45, clause by clause: the slots and the recoveries by their lemmas, the rest by their definition. -/
theorem busStateTransitions : Obligations.BusStateTransitions := by
  intro i s t h
  obtain ⟨b, hb⟩ := exec_block h
  rw [hb]
  refine ⟨?_, ?_, ?_, ?_, ?_, ?_, ?_, ?_, ?_, ?_⟩
  · rintro (rfl | rfl) <;> rfl
  · rintro rfl; rfl
  · rintro rfl; rfl
  · rintro rfl; rfl
  · rintro c rfl; exact Block.writeSlot_bs c _
  · rintro v rfl; exact Block.writeSlot_bs (nextBit v) _
  · rintro (rfl | rfl) <;> rfl
  · rintro (rfl | rfl) <;> exact s.block.writeRecovery_bs
  · rintro rfl; exact s.block.readRecovery_bs b
  · rintro (rfl | rfl | rfl | rfl | ⟨n, rfl⟩ | rfl) <;> rfl

/-! ## What lies outside the registers -/

/-- Settles O43: all but what an instruction samples, waits and answers is in the form of `State.after`. -/
theorem outsideTheBlockFrame : Obligations.OutsideTheBlockFrame := by
  intro i s t h
  obtain ⟨b, l, d, _, rfl⟩ := exec_eq_next h
  refine ⟨rfl, rfl, rfl, rfl, ⟨_, rfl⟩, ?_, ?_, ?_, ?_⟩
  · intro h1 h2 h3 h4
    have hs : s.block.samples i = false := by
      cases i with
      | readBit => exact absurd rfl h1
      | startReadByte => exact absurd rfl h2
      | expPs => exact absurd rfl h3
      | expRr => exact absurd rfl h4
      | _ => rfl
    simp [hs]
  · intro h1 h2 h3 h4 h5 h6 h7
    have hn : s.block.busyTicks i = 0 := by
      cases i with
      | writeBit c => exact absurd rfl (h1 c)
      | readBit => exact absurd rfl h2
      | writeByte v => exact absurd rfl (h3 v)
      | startReadByte => exact absurd rfl h4
      | expW0r => exact absurd rfl h5
      | expW1r => exact absurd rfl h6
      | expRr => exact absurd rfl h7
      | _ => rfl
    simp [hn]
  · rintro ⟨w, hw⟩
    cases i with
    | arm | stop | expIdle | expPdl | expPs | expPr | expW0r | expW1r | expRr => cases hw
    | _ => rfl
  · intro hw
    cases i with
    | arm | stop | expIdle | expPdl | expPs | expPr | expW0r | expW1r | expRr => rfl
    | _ => exact absurd rfl (hw _)

/-! ## `DIR` -/

/-- Another `DIR`. -/
def Block.withDir (e : Direction) (k : Block) : Block := { k with dir := e }

section withDir
variable (e : Direction) (i : Instr) (b : Bit) (k : Block)

/-- An instruction writes `DIR` whatever it was, or keeps it and is the same beside it. -/
theorem Block.after_withDir :
    (k.withDir e).after i b = k.after i b ∨
      ((k.after i b).dir = k.dir ∧ (k.withDir e).after i b = (k.after i b).withDir e) := by
  have hw : (k.withDir e).writeRecovery = k.writeRecovery.withDir e := by
    unfold Block.writeRecovery Block.withDir; split <;> rfl
  have hr : (k.withDir e).readRecovery b = (k.readRecovery b).withDir e := by
    unfold Block.readRecovery Block.withDir; split <;> rfl
  cases i with
  | init | writeByte | startReadByte => exact .inl rfl
  | expW0r | expW1r => exact .inr ⟨k.writeRecovery_dir, hw⟩
  | expRr => exact .inr ⟨k.readRecovery_dir b, hr⟩
  | _ => exact .inr ⟨rfl, rfl⟩

theorem Block.response_withDir : (k.withDir e).response i b = k.response i b := by cases i <;> rfl
theorem Block.samples_withDir : (k.withDir e).samples i = k.samples i := by cases i <;> rfl
theorem Block.drivesAtSample_withDir : (k.withDir e).drivesAtSample i = k.drivesAtSample i := by cases i <;> rfl
theorem Block.busyTicks_withDir : (k.withDir e).busyTicks i = k.busyTicks i := by cases i <;> rfl
theorem Block.events_withDir : (k.withDir e).events i b = k.events i b := by cases i <;> rfl

/-- Of the state after an instruction, only the registers can depend on `DIR`. -/
theorem State.after_withDir (l : List Bit) (d : Nat) (s : State) :
    { s with block := s.block.withDir e }.after i b l d =
      { s.after i b l d with block := (s.block.withDir e).after i b } := by
  simp only [State.after, Block.response_withDir, Block.samples_withDir, Block.busyTicks_withDir, Block.events_withDir]

end withDir

/-- Settles O44: `Block.after_withDir`, and the same answer of the environment on both sides. -/
theorem directionIsNeverRead : Obligations.DirectionIsNeverRead := by
  intro i s e
  by_cases hi : i = .arm 0
  · rw [hi]; exact .inl rfl
  obtain ⟨b, l, d, ha⟩ := exists_answers (s.block.drivesAtSample i) s
  have h : exec i s = .next (s.after i b l d) := exec_eq_after hi ha
  have h' : exec i { s with block := s.block.withDir e } =
      .next { s.after i b l d with block := (s.block.withDir e).after i b } := by
    rw [← State.after_withDir]
    exact exec_eq_after hi (by rw [Block.drivesAtSample_withDir]; exact ha)
  rcases s.block.after_withDir e i b with hk | ⟨hd, hk⟩
  · left
    rw [hk] at h'
    exact h'.trans h.symm
  · rw [hk] at h'
    exact .inr ⟨_, h, hd, h'⟩

end Sys2Proof.Machine
end

section
/-! SUPPORT. What every move of every agent keeps: a property of states that commands, handler runs, ticks and reset
keep is kept by the host's task and interface calls too, hence by every step (spec/00_scope.md R1,
48_host_sequencer.md R110). -/

namespace Sys2Proof.Machine

/-- Every next state that f answers has I, if the state before has it. -/
def Keeps (I : State → Prop) (f : State → Result) : Prop := ∀ s t : State, I s → f s = .next t → I t

namespace Keeps
variable {I : State → Prop} {f g : State → Result}

theorem next {u : State → State} (h : ∀ s, I s → I (u s)) : Keeps I fun s => .next (u s) := by
  rintro s t hs ⟨⟩
  exact h s hs

theorem skip : Keeps I fun s => .next s := next fun _ hs => hs

theorem refused (r : State → Refusal) : Keeps I fun s => .refused (r s) := by
  rintro s t _ ⟨⟩

theorem comp {u : State → State} (hf : Keeps I f) (h : ∀ s, I s → I (u s)) : Keeps I fun s => f (u s) :=
  fun s t hs ht => hf (u s) t (h s hs) ht

theorem andThen (hf : Keeps I f) (hg : Keeps I g) : Keeps I fun s => andThen (f s) g := by
  intro s t hs ht
  obtain ⟨u, hu, hut⟩ := andThen_eq_next.1 ht
  exact hg u t (hf s u hs hu) hut

theorem ite {c : State → Prop} [DecidablePred c] (hf : Keeps I f) (hg : Keeps I g) :
    Keeps I fun s => if c s then f s else g s := by
  intro s t hs ht
  by_cases hc : c s
  · exact hf s t hs ((if_pos hc).symm.trans ht)
  · exact hg s t hs ((if_neg hc).symm.trans ht)

end Keeps

/-- The word of the instruction goes to the command port (30_encoding.md R42). -/
abbrev IsCommand (i : Instr) : Prop := ∃ w, encode i = .command w

/-- What the command port decodes is a command. -/
theorem isCommand_of_decode {w : CommandWord} {i : Instr} (h : decode (.command w) = .ok i) : IsCommand i := by
  simp only [decode, decodeCommand] at h
  split at h <;> cases h <;> exact ⟨_, rfl⟩

/-- What a property of states has to pass to hold in every run: the moves of the block, and that it does not depend on
the host's variables, the response and the result of a call. -/
structure KeptByMoves (I : State → Prop) : Prop where
  command : ∀ {i}, IsCommand i → Keeps I (issue i)
  expire : Keeps I expireStep
  tick : ∀ s, I s → I (tick s)
  reset : ∀ s, I s → I (resetBlock s)
  respond : ∀ v s, I s → I (respond v s)
  onSeq : ∀ f s, I s → I (s.onSeq f)
  ret : ∀ r s, I s → I { s with ret := r }

namespace KeptByMoves
variable {I : State → Prop} (hI : KeptByMoves I)
include hI

/-! ## The host's task (48_host_sequencer.md R120 to R128) -/

theorem issueThen {i : Instr} (hi : IsCommand i) (f : Sequencer → Sequencer) : Keeps I (issueThen i f) :=
  (hI.command hi).andThen (.next (hI.onSeq f))

theorem seqRowIdle : Keeps I seqRowIdle :=
  .ite (hI.issueThen ⟨_, rfl⟩ _) .skip

theorem seqRowDetectPresence : Keeps I seqRowDetectPresence :=
  .ite (hI.issueThen ⟨_, rfl⟩ _)
    ((hI.command ⟨_, rfl⟩).andThen (.ite (hI.issueThen ⟨_, rfl⟩ _) (.next (hI.onSeq _))))

theorem seqRowSkipAddressing : Keeps I seqRowSkipAddressing :=
  .ite (hI.issueThen ⟨_, rfl⟩ _) (.ite (hI.issueThen ⟨_, rfl⟩ _) (.ite (hI.issueThen ⟨_, rfl⟩ _) .skip))

theorem seqRowConvert : Keeps I seqRowConvert :=
  (hI.command ⟨_, rfl⟩).andThen (.ite (.next (hI.onSeq _)) .skip)

theorem seqRowAcquire : Keeps I seqRowAcquire :=
  (hI.command ⟨_, rfl⟩).andThen
    (Keeps.comp (f := fun t => if t.seq.stored < 9 then issue .startReadByte t else .next (t.onSeq finishAcquisition))
      (.ite (hI.command ⟨_, rfl⟩) (.next (hI.onSeq _))) fun t => hI.onSeq (storeByte (t.rsp.getD 0)) t)

theorem seqRow : Keeps I seqRow := by
  intro s t hs ht
  unfold Machine.seqRow at ht
  split at ht
  · exact hI.seqRowIdle s t hs ht
  · exact hI.seqRowDetectPresence s t hs ht
  · exact hI.seqRowSkipAddressing s t hs ht
  · exact hI.issueThen ⟨_, rfl⟩ _ s t hs ht
  · exact hI.issueThen ⟨_, rfl⟩ _ s t hs ht
  · exact hI.issueThen ⟨_, rfl⟩ _ s t hs ht
  · exact Keeps.next (hI.onSeq _) s t hs ht
  · exact hI.seqRowConvert s t hs ht
  · exact hI.issueThen ⟨_, rfl⟩ _ s t hs ht
  · exact hI.seqRowAcquire s t hs ht
  · exact Keeps.next (hI.onSeq _) s t hs ht

theorem seqTask : Keeps I seqTask :=
  .ite (.next (hI.onSeq _))
    ((hI.command ⟨_, rfl⟩).andThen (.ite (.ite (.next (hI.onSeq _)) hI.seqRow) .skip))

/-- A call of the sequencer's interface (48_host_sequencer.md R115 to R119). -/
theorem seqApi (c : ApiCall) : Keeps I (seqApi c) := by
  cases c with
  | seqInit => exact hI.issueThen ⟨_, rfl⟩ _
  | configure => exact .next (hI.onSeq _)
  | startAcquisition => exact .next (hI.onSeq _)
  | isTemperatureReady => exact .next fun s hs => hI.ret _ _ (hI.onSeq _ s hs)
  | getTemperature => exact .next fun s hs => hI.ret _ _ (hI.onSeq _ s hs)

/-! ## Every move, and a step -/

theorem reservedCommand (w : CommandWord) : Keeps I (reservedCommand w) :=
  .ite (.refused _) (.next (hI.respond _))

theorem takeCommand (w : CommandWord) : Keeps I (takeCommand w) := by
  intro s t hs ht
  unfold Machine.takeCommand at ht
  split at ht
  next i hd => exact hI.command (isCommand_of_decode hd) s t hs ht
  next => exact hI.reservedCommand w s t hs ht

theorem runInput {e : Input} (he : e.isTimerPort = false) : Keeps I (runInput e) := by
  cases e with
  | reset => exact .next hI.reset
  | command w => exact hI.takeCommand w
  | timerPort w => cases he
  | tick => exact .next hI.tick
  | expire => exact hI.expire
  | schedulerTick => exact hI.seqTask.comp (hI.onSeq _)
  | api c => exact hI.seqApi c
  | acquisitionTimeout => exact .next (hI.onSeq _)

end KeptByMoves

/-- With no bench word listed the next move is none (40_timer.md R66). -/
theorem nextInput_isTimerPort {s : State} (h : s.transportOnly = true) : (nextInput s).isTimerPort = false := by
  unfold nextInput
  unfold State.transportOnly at h
  cases hs : s.inbox with
  | nil => cases s.block.pend <;> rfl
  | cons e rest => simp_all

theorem openStep_transportOnly {s : State} (h : s.transportOnly = true) : (openStep s).transportOnly = true := by
  unfold State.transportOnly at h ⊢
  rw [openStep_inbox]
  cases hs : s.inbox with
  | nil => rfl
  | cons e rest => simp_all

/-- A property that every move keeps is kept by a step, taken from the state its move starts in. -/
theorem KeptByMoves.step {I : State → Prop} (hI : KeptByMoves I) {s t : State} (hs : s.transportOnly = true)
    (ho : I (openStep s)) (h : step s = .next t) : I t :=
  hI.runInput (nextInput_isTimerPort hs) _ t ho h

end Sys2Proof.Machine
end

section
/-! The invariants of every run (spec/10_state.md R23): O46 to O48. -/

namespace Sys2Proof.Machine

/-! ## R23 but for `REM`, on the registers -/

namespace Block
variable {k : Block}

/-- A phase outside `Idle` begins, armed with a target of R23 (e) that is not 0. -/
theorem startPhase_anyHostInv {bs : BusState} {n : Ticks} (hbs : bs ≠ .idle)
    (how : k.owdrv = true → bs = .presenceDriveLow) (hn : n ∈ compareTargets) (hpos : 0 < n.toNat) :
    (k.startPhase bs n).AnyHostInv :=
  ⟨fun h => absurd h hbs, fun _ => rfl, how, fun _ => hpos, hn⟩

theorem writeSlot_anyHostInv (c : Bit) (k : Block) : (k.writeSlot c).AnyHostInv := by
  obtain rfl | rfl := BitVec.eq_zero_or_eq_one c
  · exact startPhase_anyHostInv (by decide) nofun (by decide) (by decide)
  · exact startPhase_anyHostInv (by decide) nofun (by decide) (by decide)

theorem readSlot_anyHostInv (b : Bit) (k : Block) : (k.readSlot b).AnyHostInv :=
  startPhase_anyHostInv (by decide) nofun (by decide) (by decide)

/-- In the handler run of an event the timer is halted, and the line is released but in the drive-low phase. -/
theorem AnyHostInv.at_event (h : k.AnyHostInv) (hp : k.pend = true) :
    k.bs ≠ .idle ∧ k.run = false ∧ (k.bs ≠ .presenceDriveLow → k.owdrv = false) := by
  obtain ⟨hidle, hbusy, hline, _, _⟩ := h
  have hbs : k.bs ≠ .idle := fun hb => by simp [hidle hb] at hp
  exact ⟨hbs, by rw [hbusy hbs, hp]; rfl, fun hn => Bool.eq_false_iff.2 fun ho => hn (hline ho)⟩

theorem AnyHostInv.finish (h : k.AnyHostInv) (hp : k.pend = true) (hbs : k.bs ≠ .presenceDriveLow) :
    k.finish.AnyHostInv := by
  obtain ⟨_, hrun, how⟩ := h.at_event hp
  obtain ⟨_, _, _, hcnt, hcmp⟩ := h
  have hreleased : k.finish.owdrv = false := how hbs
  exact ⟨fun _ => ⟨hrun, rfl, hreleased⟩, fun hn => absurd rfl hn, by simp [hreleased], hcnt, hcmp⟩

theorem AnyHostInv.writeRecovery (h : k.AnyHostInv) (hp : k.pend = true) (hbs : k.bs ≠ .presenceDriveLow) :
    k.writeRecovery.AnyHostInv := by
  by_cases hr : k.rem = 0
  · rw [writeRecovery_last hr]
    exact h.finish hp hbs
  · rw [writeRecovery_more hr]
    exact writeSlot_anyHostInv _ _

theorem AnyHostInv.readRecovery (h : k.AnyHostInv) (hp : k.pend = true) (hbs : k.bs ≠ .presenceDriveLow) (b : Bit) :
    (k.readRecovery b).AnyHostInv := by
  by_cases hr : k.rem = 0
  · rw [readRecovery_last b hr]
    exact AnyHostInv.finish (k := { k with val := _, last := _ }) h hp hbs
  · rw [readRecovery_more b hr]
    exact readSlot_anyHostInv _ _

theorem AnyHostInv.tick (h : k.AnyHostInv) : k.tick.AnyHostInv := by
  obtain ⟨hidle, hbusy, hline, hcnt, hcmp⟩ := h
  obtain ⟨_, ht⟩ | ⟨hr, _, ht⟩ | ⟨hr, hne, ht⟩ := k.tick_cases
  · rw [ht]
    exact ⟨hidle, hbusy, hline, hcnt, hcmp⟩
  · rw [ht]
    have hbs : k.bs ≠ .idle := fun hb => by simp [hidle hb] at hr
    exact ⟨fun hb => absurd hb hbs, fun _ => rfl, hline, nofun, hcmp⟩
  · rw [ht]
    have hlt : (k.cnt + 1).toNat < k.cmp.toNat := by
      have := hcnt hr
      bv_omega
    exact ⟨hidle, hbusy, hline, fun _ => hlt, hcmp⟩

/-- A command keeps it in whatever state it is issued (90_conflicts.md C10). -/
theorem AnyHostInv.command {i : Instr} (hi : IsCommand i) (h : k.AnyHostInv) (b : Bit) : (k.after i b).AnyHostInv := by
  cases i with
  | init =>
    obtain ⟨_, _, _, _, hcmp⟩ := h
    exact ⟨fun _ => ⟨rfl, rfl, rfl⟩, fun hn => absurd rfl hn, nofun, nofun, hcmp⟩
  | detectPresence => exact startPhase_anyHostInv (by decide) (fun _ => rfl) (by decide) (by decide)
  | getPresence => exact h
  | writeBit c => exact writeSlot_anyHostInv c k
  | readBit => exact readSlot_anyHostInv b k
  | writeByte v => exact writeSlot_anyHostInv _ _
  | startReadByte => exact readSlot_anyHostInv b _
  | isIdle => exact h
  | getLastByte => exact h
  | arm | stop | expIdle | expPdl | expPs | expPr | expW0r | expW1r | expRr => obtain ⟨w, hw⟩ := hi; cases hw

/-- The arm that `BS` selects keeps it (60_exceptions.md R143); in `Idle` there is no event. -/
theorem AnyHostInv.handler (h : k.AnyHostInv) (hp : k.pend = true) (b : Bit) :
    (k.after (handlerArm k.bs) b).AnyHostInv := by
  obtain ⟨hbusy, hrun, how⟩ := h.at_event hp
  cases hbs : k.bs with
  | idle => exact absurd hbs hbusy
  | presenceDriveLow => exact startPhase_anyHostInv (by decide) nofun (by decide) (by decide)
  | presenceSample =>
    have hreleased : k.owdrv = false := how (by simp [hbs])
    exact startPhase_anyHostInv (by decide) (by simp [hreleased]) (by decide) (by decide)
  | presenceRecovery => exact h.finish hp (by simp [hbs])
  | write0Recovery => exact h.writeRecovery hp (by simp [hbs])
  | write1Recovery => exact h.writeRecovery hp (by simp [hbs])
  | readRecovery => exact h.readRecovery hp (by simp [hbs]) b

/-! ## `REM` is 0 where no byte is in progress -/

theorem writeSlot_noByte (c : Bit) (k : Block) : (k.writeSlot c).bs.noByte = false := by
  obtain rfl | rfl := BitVec.eq_zero_or_eq_one c <;> rfl

theorem DutifulInv.tick (h : k.DutifulInv) : k.tick.DutifulInv := by
  obtain ⟨hany, hrem⟩ := h
  obtain ⟨hbs, _, hr, _⟩ := k.tick_frame
  exact ⟨hany.tick, by rw [hbs, hr]; exact hrem⟩

/-- A command keeps it, an initiating one in `Idle` (70_reset_and_hazards.md R163). -/
theorem DutifulInv.command {i : Instr} (hi : IsCommand i) (hduty : initiates i = true → k.bs = .idle)
    (h : k.DutifulInv) (b : Bit) : (k.after i b).DutifulInv := by
  obtain ⟨hany, hrem⟩ := h
  refine ⟨hany.command hi b, ?_⟩
  cases i with
  | init => exact fun _ => rfl
  | detectPresence => exact fun _ => hrem (by rw [hduty rfl]; rfl)
  | getPresence => exact hrem
  | writeBit c => exact fun hn => absurd hn (by rw [after, writeSlot_noByte]; decide)
  | readBit => exact nofun
  | writeByte v => exact fun hn => absurd hn (by rw [after, writeSlot_noByte]; decide)
  | startReadByte => exact nofun
  | isIdle => exact hrem
  | getLastByte => exact hrem
  | arm | stop | expIdle | expPdl | expPs | expPr | expW0r | expW1r | expRr => obtain ⟨w, hw⟩ := hi; cases hw

theorem writeRecovery_rem (k : Block) : k.writeRecovery.bs.noByte = true → k.writeRecovery.rem = 0 := by
  by_cases hr : k.rem = 0
  · rw [writeRecovery_last hr]
    exact fun _ => hr
  · rw [writeRecovery_more hr, writeSlot_noByte]
    nofun

theorem readRecovery_rem (b : Bit) (k : Block) :
    (k.readRecovery b).bs.noByte = true → (k.readRecovery b).rem = 0 := by
  by_cases hr : k.rem = 0
  · rw [readRecovery_last b hr]
    exact fun _ => hr
  · rw [readRecovery_more b hr]
    nofun

theorem DutifulInv.handler (h : k.DutifulInv) (hp : k.pend = true) (b : Bit) :
    (k.after (handlerArm k.bs) b).DutifulInv := by
  obtain ⟨hany, hrem⟩ := h
  refine ⟨hany.handler hp b, ?_⟩
  cases hbs : k.bs with
  | idle => exact absurd hbs (hany.at_event hp).1
  | presenceDriveLow => exact fun _ => hrem (by rw [hbs]; rfl)
  | presenceSample => exact fun _ => hrem (by rw [hbs]; rfl)
  | presenceRecovery => exact fun _ => hrem (by rw [hbs]; rfl)
  | write0Recovery => exact k.writeRecovery_rem
  | write1Recovery => exact k.writeRecovery_rem
  | readRecovery => exact k.readRecovery_rem b

end Block

/-! ## Every move -/

/-- A pending event or none: the move EXPIRE keeps what the handler's arms keep. -/
theorem keeps_expireStep {I : State → Prop}
    (h : ∀ (s : State) b l d, I s → s.block.pend = true → I (s.after (handlerArm s.block.bs) b l d)) :
    Keeps I expireStep := by
  intro s t hs ht
  unfold expireStep at ht
  split at ht
  next hp =>
    obtain ⟨b, l, d, _, rfl⟩ := exec_eq_next ht
    exact h s b l d hs hp
  next => cases ht; exact hs

/-- A command that is not refused keeps what its effect keeps. -/
theorem keeps_issue {I : State → Prop} {i : Instr}
    (h : ∀ (s : State) b l d, I s → (s.contract = true → breaksIdleDuty i s = false) → I (s.after i b l d)) :
    Keeps I (issue i) := by
  intro s t hs ht
  obtain ⟨hr, _⟩ | ⟨he, hduty⟩ := issue_cases i s
  · rw [hr] at ht; cases ht
  · rw [he] at ht
    obtain ⟨b, l, d, _, rfl⟩ := exec_eq_next ht
    exact h s b l d hs hduty

theorem breaksIdleDuty_eq_false {i : Instr} {s : State} (h : breaksIdleDuty i s = false) (hi : initiates i = true) :
    s.block.bs = .idle := by
  simpa [breaksIdleDuty, hi, State.idlePort] using h

/-- Settles O46: the reset state, evaluated. -/
theorem resetMeetsTheInvariants : Obligations.ResetMeetsTheInvariants := by
  unfold Obligations.ResetMeetsTheInvariants
  decide

/-- R23 but for `REM`, in a run whose timer only the transport drives. -/
def AnyHostRun (s : State) : Prop := s.block.AnyHostInv ∧ s.transportOnly = true

theorem anyHostRun_kept : KeptByMoves AnyHostRun where
  command hi := keeps_issue fun _ b _ _ ⟨h, ht⟩ _ => ⟨h.command hi b, ht⟩
  expire := keeps_expireStep fun _ b _ _ ⟨h, ht⟩ hp => ⟨h.handler hp b, ht⟩
  tick _ := fun ⟨h, ht⟩ => ⟨h.tick, ht⟩
  reset _ := fun ⟨_, ht⟩ => ⟨resetMeetsTheInvariants.1, ht⟩
  respond _ _ h := h
  onSeq _ _ h := h
  ret _ _ h := h

/-- R23 whole, in such a run that refuses breaches of the idle duty. -/
def DutifulRun (s : State) : Prop := s.block.DutifulInv ∧ s.transportOnly = true ∧ s.contract = true

theorem dutifulRun_kept : KeptByMoves DutifulRun where
  command hi := keeps_issue fun _ b _ _ ⟨h, ht, hc⟩ hduty =>
    ⟨h.command hi (breaksIdleDuty_eq_false (hduty hc)) b, ht, hc⟩
  expire := keeps_expireStep fun _ b _ _ ⟨h, ht, hc⟩ hp => ⟨h.handler hp b, ht, hc⟩
  tick _ := fun ⟨h, ht, hc⟩ => ⟨h.tick, ht, hc⟩
  reset _ := fun ⟨_, ht, hc⟩ => ⟨resetMeetsTheInvariants.2.1, ht, hc⟩
  respond _ _ h := h
  onSeq _ _ h := h
  ret _ _ h := h

/-- Settles O47: `AnyHostRun` is kept by every move. -/
theorem stepKeepsInvariantUnderAnyHost : Obligations.StepKeepsInvariantUnderAnyHost :=
  fun _ _ h ht hs => anyHostRun_kept.step ht ⟨h, openStep_transportOnly ht⟩ hs

/-- Settles O48: `DutifulRun` is kept by every move. -/
theorem stepKeepsInvariantUnderDutifulHost : Obligations.StepKeepsInvariantUnderDutifulHost :=
  fun _ _ h ht hc hs => dutifulRun_kept.step ht ⟨h, openStep_transportOnly ht, hc⟩ hs

end Sys2Proof.Machine
end

section
/-! What each field of a word selects and what the encoder writes into it (spec/30_encoding.md R42 to R48): O2 to O6. -/

namespace Sys2Proof.Machine

/-! ## What the encoder writes into the argument -/

/-- A bit widened to the argument leaves bits 7 to 1 of it 0. -/
theorem setWidth_bit_and_unused (b : Bit) : b.setWidth 8 &&& 0xFE = 0 := by
  obtain rfl | rfl := BitVec.eq_zero_or_eq_one b <;> rfl

/-- The argument of an encoded command: its operand where it has one, 0 where it has none (30_encoding.md R46). -/
theorem argField_of_encode {i : Instr} {w : CommandWord} (h : encode i = .command w) :
    argField w = 0 ∨ (∃ b, i = .writeBit b ∧ argField w = b.setWidth 8) ∨ ∃ v, i = .writeByte v := by
  cases i with
  | writeBit b => cases h; exact .inr (.inl ⟨b, rfl, argField_commandWord _ _⟩)
  | writeByte v => exact .inr (.inr ⟨v, rfl⟩)
  | init | detectPresence | getPresence | readBit | startReadByte | isIdle | getLastByte =>
    cases h; exact .inl (argField_commandWord _ _)
  | arm | stop | expIdle | expPdl | expPs | expPr | expW0r | expW1r | expRr => cases h

/-! ## What the decoder reads on each port -/

/-- The reserved opcodes, whatever the argument (30_encoding.md R45). -/
theorem decode_reserved {op : BitVec 4} (h : 9 ≤ op.toNat) (arg : Byte) :
    decode (.command (commandWord op arg)) = .error (.reservedOpcode op) := by
  simp only [decode, decodeCommand, opField_commandWord]
  split
  case h_10 => rfl
  all_goals omega

/-- Settles O3: `argField_of_encode` for the encoder; the decoder reads the two fields back, and each of the 16 opcodes
selects its command. -/
theorem commandWordsDecodeByOpcode : Obligations.CommandWordsDecodeByOpcode := by
  refine ⟨fun i w hw hbyte => ?_, fun op arg => ?_⟩
  · obtain h | ⟨b, hi, h⟩ | ⟨v, hi⟩ := argField_of_encode hw
    · exact ⟨by rw [h]; rfl, fun _ => h⟩
    · exact ⟨by rw [h, setWidth_bit_and_unused], fun hbit => absurd hi (hbit b)⟩
    · exact absurd hi (hbyte v)
  · simp only [decode, decodeCommand, opField_commandWord, argField_commandWord, bitOperand_commandWord]
    obtain ⟨⟨n, hn⟩⟩ := op
    interval_cases n <;> rfl

/-- Settles O4: the decoder reads the two fields back, and `top` alone selects. -/
theorem timerPortWordsDecodeByTop : Obligations.TimerPortWordsDecodeByTop := by
  intro n
  simp only [decode, decodeTimer, topField_timerWord, ticksField_timerWord]
  exact ⟨rfl, rfl, rfl, rfl⟩

/-- Settles O5: `decode_code` and `ofCode_code` for the seven bus states; code 7 by evaluation. -/
theorem handlerArmIsChosenByBusStateCode : Obligations.HandlerArmIsChosenByBusStateCode :=
  ⟨fun b => ⟨decode_code b, ofCode_code b⟩, decode_code .idle, decode_code .presenceDriveLow,
    decode_code .presenceSample, decode_code .presenceRecovery, decode_code .write0Recovery,
    decode_code .write1Recovery, decode_code .readRecovery, rfl⟩

/-- Settles O6: fixed words, each evaluated. -/
theorem sampleWordsDecode : Obligations.SampleWordsDecode := by
  unfold Obligations.SampleWordsDecode
  decide

/-- Settles O2: the encoder's word is one of those that O3, O4 and `decode_code` decode, port by port; the bit operand,
widened to the argument, is read back from bit 0 of it. -/
theorem decodeOfEncodeIsIdentity : Obligations.DecodeOfEncodeIsIdentity := by
  obtain ⟨_, hcommand⟩ := commandWordsDecodeByOpcode
  intro i
  cases i with
  | init => exact hcommand 0x0 0
  | detectPresence => exact hcommand 0x1 0
  | getPresence => exact hcommand 0x2 0
  | writeBit b => simpa [encode, BitVec.extractLsb'_setWidth_of_le] using hcommand 0x3 (b.setWidth 8)
  | readBit => exact hcommand 0x4 0
  | writeByte v => exact hcommand 0x5 v
  | startReadByte => exact hcommand 0x6 0
  | isIdle => exact hcommand 0x7 0
  | getLastByte => exact hcommand 0x8 0
  | arm n =>
    obtain ⟨_, _, harm, _⟩ := timerPortWordsDecodeByTop n
    exact harm
  | stop =>
    obtain ⟨_, hstop, _, _⟩ := timerPortWordsDecodeByTop 0
    exact hstop
  | expIdle => exact decode_code .idle
  | expPdl => exact decode_code .presenceDriveLow
  | expPs => exact decode_code .presenceSample
  | expPr => exact decode_code .presenceRecovery
  | expW0r => exact decode_code .write0Recovery
  | expW1r => exact decode_code .write1Recovery
  | expRr => exact decode_code .readRecovery

end Sys2Proof.Machine
end

section
/-! A step with a word listed next on a port runs what the word decodes to (spec/30_encoding.md R41, R45, R47): O7, O9
and O12. -/

namespace Sys2Proof.Machine

/-- A listed input is the next move; it is taken off the list and the outputs of the last step are withdrawn. -/
theorem step_listed {s : State} {e : Input} {rest : List Input} (h : s.inbox = e :: rest) :
    step s = runInput e { s with inbox := rest, rsp := none, ret := none } := by
  simp [step, nextInput, openStep, h]

/-- A command that breaks no duty which the run refuses is performed. -/
theorem issue_dutiful {i : Instr} {s : State} (h : s.contract = true → breaksIdleDuty i s = false) :
    issue i s = exec i s := by
  obtain ⟨_, hc, hb⟩ | ⟨he, _⟩ := issue_cases i s
  · simp [h hc] at hb
  · exact he

section takeWord
variable {i : Instr} {e : DecodeError}

theorem takeCommand_ok {w : CommandWord} (h : decode (.command w) = .ok i) (s : State) :
    takeCommand w s = issue i s := by
  rw [takeCommand, h]

theorem takeCommand_error {w : CommandWord} (h : decode (.command w) = .error e) (s : State) :
    takeCommand w s = reservedCommand w s := by
  rw [takeCommand, h]

theorem takeTimerWord_ok {t : TimerWord} (h : decode (.timer t) = .ok i) (s : State) :
    takeTimerWord t s = exec i s := by
  rw [takeTimerWord, h]

theorem takeTimerWord_noOperation {t : TimerWord} (h : decode (.timer t) = .error .timerNoOperation) (s : State) :
    takeTimerWord t s = .next s := by
  rw [takeTimerWord, h]

theorem takeTimerWord_reserved {t : TimerWord} (h : decode (.timer t) = .error .reservedTimerOperation) (s : State) :
    takeTimerWord t s = .refused .reservedTimerOperation := by
  rw [takeTimerWord, h]

end takeWord

/-- Settles O7: the listed word is taken, and its command breaks no duty that the run refuses. -/
theorem stepRunsDecodedCommand : Obligations.StepRunsDecodedCommand := by
  intro s w rest i hs hd hduty
  rw [step_listed hs, runInput, takeCommand_ok hd]
  exact issue_dutiful hduty

/-- Settles O9: one clause for each way a timer port word decodes. -/
theorem stepRunsTimerPortWord : Obligations.StepRunsTimerPortWord := by
  intro s t rest hs
  rw [step_listed hs, runInput]
  exact ⟨fun _ h => takeTimerWord_ok h _, fun h => takeTimerWord_noOperation h _, fun h => takeTimerWord_reserved h _⟩

/-- Settles O12: the word decodes to an error, so the step is `reservedCommand`, which answers by `contract`. -/
theorem reservedOpcodeChangesNothing : Obligations.ReservedOpcodeChangesNothing := by
  intro op arg hop
  refine ⟨decode_reserved hop arg, fun s rest hs => ?_⟩
  rw [step_listed hs, runInput, takeCommand_error (decode_reserved hop arg)]
  exact ⟨fun hc => if_neg (by simp [hc]), fun hc => if_pos hc⟩

end Sys2Proof.Machine
end

section
/-! The timer (spec/40_timer.md): what its two operations leave, and how a tick, or any number of them, moves the
timer's registers: O10 and O15 to O18. -/

namespace Sys2Proof.Machine

/-! ## One tick -/

namespace Block
variable {k : Block}

/-- A tick as one equation, its cases in the order of 40_timer.md R62. -/
theorem tick_eq (k : Block) :
    k.tick =
      if k.run = false then k
      else if k.cnt + 1 = k.cmp then { k with cnt := k.cnt + 1, run := false, pend := true }
      else { k with cnt := k.cnt + 1 } := by
  obtain ⟨hr, h⟩ | ⟨hr, hc, h⟩ | ⟨hr, hc, h⟩ := k.tick_cases
  · rw [h, if_pos hr]
  · rw [h, if_neg (by simp [hr]), if_pos hc]
  · rw [h, if_neg (by simp [hr]), if_neg hc]

theorem tick_counts (hr : k.run = true) (hc : k.cnt + 1 ≠ k.cmp) : k.tick = { k with cnt := k.cnt + 1 } := by
  rw [tick_eq, if_neg (by simp [hr]), if_neg hc]

theorem tick_fires (hr : k.run = true) (hc : k.cnt + 1 = k.cmp) :
    k.tick = { k with cnt := k.cmp, run := false, pend := true } := by
  rw [tick_eq, if_neg (by simp [hr]), if_pos hc, hc]

/-! ## Any number of ticks -/

theorem tick_iterate_halted (hr : k.run = false) (m : Nat) : tick^[m] k = k :=
  Function.iterate_fixed (tick_halted hr) m

/-- Before the target a running counter adds one a tick. -/
theorem tick_iterate_counts (hr : k.run = true) (m : Nat) (hm : k.cnt.toNat + m < k.cmp.toNat) :
    tick^[m] k = { k with cnt := k.cnt + BitVec.ofNat 16 m } := by
  induction m with
  | zero => simp
  | succ m ih =>
    have hc : k.cnt + BitVec.ofNat 16 m + 1 ≠ k.cmp := by bv_omega
    calc tick^[m + 1] k
        = tick { k with cnt := k.cnt + BitVec.ofNat 16 m } := by rw [Function.iterate_succ_apply', ih (by omega)]
      _ = { k with cnt := k.cnt + BitVec.ofNat 16 m + 1 } := tick_counts hr hc
      _ = { k with cnt := k.cnt + BitVec.ofNat 16 (m + 1) } := by
        rw [BitVec.add_assoc, BitVec.ofNat_add]
        rfl

/-- The tick that reaches the target fires the event. -/
theorem tick_iterate_fires (hr : k.run = true) (m : Nat) (hm : k.cnt.toNat + (m + 1) = k.cmp.toNat) :
    tick^[m + 1] k = { k with cnt := k.cmp, run := false, pend := true } := by
  have hc : k.cnt + BitVec.ofNat 16 m + 1 = k.cmp := by bv_omega
  rw [Function.iterate_succ_apply', tick_iterate_counts hr m (by omega)]
  exact tick_fires hr hc

end Block

/-- The registers after n ticks depend on the registers alone. -/
theorem tickN_block (n : Nat) (s : State) : (tickN n s).block = Block.tick^[n] s.block := by
  induction n generalizing s with
  | zero => rfl
  | succ n ih => rw [tickN_succ, ih, tick_block, Function.iterate_succ_apply]

/-- A number of ticks that fits the port goes through it unchanged. -/
theorem ticks_toNat {n : Nat} (h : n < 2 ^ 16) : (ticks n).toNat = n := Nat.mod_eq_of_lt h

/-! ## The statements -/

/-- Settles O10: a listed tick and the block's own are the same `tick`, whose cases `Block.tick_eq` gives. -/
theorem tickCountsAndFires : Obligations.TickCountsAndFires := by
  intro s rest h
  have hstep : step s = .next (tick { s with inbox := rest, rsp := none, ret := none }) := by
    obtain h | ⟨h, rfl, hp⟩ := h
    · rw [step_listed h, runInput]
    · rw [step_ticks h hp, quiet, h]
  rw [hstep, ← Block.tick_eq]
  rfl

/-- Settles O15: the decoder's clause is one of O4; the operation is `timerArm`. -/
theorem armResult : Obligations.ArmResult := by
  intro n s hn
  obtain ⟨_, _, harm, _⟩ := timerPortWordsDecodeByTop n
  exact ⟨harm, if_neg hn⟩

/-- Settles O16: the bounds by evaluation of the six durations; what lies within them fits the port and is not 0. -/
theorem armZeroIsRefused : Obligations.ArmZeroIsRefused := by
  refine ⟨fun s => by rw [exec, execArm, if_pos rfl], fun n hn => ?_⟩
  have hbounds : 20 ≤ n ∧ n ≤ 960 := by revert n; decide
  have hfits : (ticks n).toNat = n := ticks_toNat (by omega)
  exact ⟨by bv_omega, hfits, hbounds⟩

/-- Settles O17: a halted timer stays as it is, however many ticks follow. -/
theorem stopResult : Obligations.StopResult := by
  refine ⟨fun n => ?_, fun s => ⟨timerStop s, rfl, rfl, fun k => ?_⟩⟩
  · obtain ⟨_, hstop, _, _⟩ := timerPortWordsDecodeByTop n
    exact hstop
  · rw [tickN_block]
    exact Block.tick_iterate_halted rfl k

/-- Settles O18: the counter counts up to n - 1, the n-th tick fires, and the timer it halts stays as it is. -/
theorem armedTimerFiresOnceOnTheNthTick : Obligations.ArmedTimerFiresOnceOnTheNthTick := by
  intro n s hn
  obtain ⟨_, harm⟩ := armResult n s hn
  refine ⟨_, harm, fun k => ⟨fun hk => ?_, fun hk => ?_⟩⟩
  · rw [tickN_block, Block.tick_iterate_counts rfl k (by simpa using hk)]
    simp
  · obtain ⟨m, hm⟩ : ∃ m, n.toNat = m + 1 := Nat.exists_eq_succ_of_ne_zero (by bv_omega)
    obtain ⟨j, rfl⟩ := Nat.exists_eq_add_of_le' hk
    rw [tickN_block, Function.iterate_add_apply, hm, Block.tick_iterate_fires rfl m (by simp [hm]),
      Block.tick_iterate_halted rfl]

end Sys2Proof.Machine
end

section
/-! The control and status commands (spec/41_transport_control.md): what INIT leaves, and what the host's three windows
answer: O20 to O23. -/

namespace Sys2Proof.Machine

/-! ## The tests behind the answers -/

/-- A Boolean response answers 0x01 exactly on what its test decides (30_encoding.md R44). -/
theorem boolResponse_of_iff {c : Bool} {p : Prop} [Decidable p] (h : c = true ↔ p) :
    boolResponse c = if p then 0x01 else 0x00 :=
  if_congr h rfl rfl

/-- The mailbox values that GET_PRESENCE answers `Ok` on, for either value of the parameter. -/
theorem presenceAnswer_iff (aliases : Bool) (m : LastSample) :
    presenceAnswer aliases m = true ↔ m = .presenceOk ∨ (aliases = true ∧ m = .bit0) := by
  simp [presenceAnswer]

/-- At the default of the parameter only `PresenceOk` counts (D12; log 14). -/
theorem presenceAnswer_default_iff (m : LastSample) :
    presenceAnswer Config.presenceOkAliasesBit0 m = true ↔ m = .presenceOk := by
  simp [presenceAnswer_iff, Config.presenceOkAliasesBit0]

/-! ## The next state of each command -/

/-- All that INIT does (41_transport_control.md R70). -/
theorem exec_init (s : State) :
    exec .init s = .next
      { s with
        block := { s.block with bs := .idle, val := 0x00, rem := 0, dir := .write, last := .notReady,
                                owdrv := false, run := false, pend := false }
        rsp := some 0x00
        trace := s.trace ++ [.stop, .rl] } := by
  obtain ⟨b, l, d, ha⟩ := exists_answers (s.block.drivesAtSample .init) s
  exact exec_eq_after (by decide) ha

/-- All that IS_IDLE does (41_transport_control.md R71). -/
theorem exec_isIdle (s : State) :
    exec .isIdle s = .next { s with rsp := some (if s.block.bs = .idle then 0x01 else 0x00) } := by
  rw [exec, execIsIdle, boolResponse_of_iff beq_iff_eq]
  rfl

/-- All that GET_PRESENCE does (41_transport_control.md R72). -/
theorem exec_getPresence (s : State) :
    exec .getPresence s = .next
      { s with
        block := { s.block with last := .notReady }
        rsp := some (if s.block.last = .presenceOk then 0x01 else 0x00) } := by
  rw [exec, execGetPresence, boolResponse_of_iff (presenceAnswer_default_iff _)]
  rfl

/-! ## The statements -/

/-- Settles O20: the state INIT leaves is in `Idle` with an empty mailbox, so the two windows answer 0x01 and 0x00 and
write nothing there, nor does a second INIT. -/
theorem initResult : Obligations.InitResult := by
  obtain ⟨_, hcommand⟩ := commandWordsDecodeByOpcode
  exact ⟨hcommand 0x0, fun s => ⟨_, exec_init s, rfl,
    ⟨_, exec_isIdle _, rfl, rfl⟩, ⟨_, exec_getPresence _, rfl, rfl⟩, ⟨_, exec_init _, rfl⟩⟩⟩

/-- Settles O21: the decoder's clause is one of O3; the answer tests `BS` alone. -/
theorem isIdleResult : Obligations.IsIdleResult := by
  obtain ⟨_, hcommand⟩ := commandWordsDecodeByOpcode
  exact ⟨hcommand 0x7, exec_isIdle⟩

/-- Settles O22: the first read leaves `NotReady`, on which the second answers 0x00 and changes no register. -/
theorem getPresenceResult : Obligations.GetPresenceResult := by
  obtain ⟨_, hcommand⟩ := commandWordsDecodeByOpcode
  exact ⟨hcommand 0x2, exec_getPresence, fun s => ⟨_, _, exec_getPresence s, exec_getPresence _, rfl, rfl⟩,
    presenceAnswer_iff⟩

/-- Settles O23: the response takes `VAL`, and `respond` writes nothing else. -/
theorem getLastByteResult : Obligations.GetLastByteResult := by
  obtain ⟨_, hcommand⟩ := commandWordsDecodeByOpcode
  exact ⟨hcommand 0x8, fun _ => rfl⟩

end Sys2Proof.Machine
end

section
/-! The bus reset with presence detect (spec/42_presence.md): what its command and its three handler arms leave, and the
sequence as a whole: O25 to O27, O29 and O30. -/

namespace Sys2Proof.Machine

/-! ## The block by itself, phase after phase -/

/-- A run goes on from the state that its first part ends in. -/
theorem steps_then {j k : Nat} {s t : State} {o : Result} (hj : steps j s = .next t) (hk : steps k t = o) :
    steps (j + k) s = o := by
  rw [steps_add, hj, andThen_next, hk]

/-- The phase under way has lasted its n ticks, and its event waits for the handler (40_timer.md R62). -/
def State.phaseOver (n : Nat) (s : State) : State :=
  { quiet s with block := { s.block with cnt := s.block.cmp, run := false, pend := true }, now := s.now + n }

/-- With nothing listed, a phase just begun lasts its n ticks; then the arm of its bus state runs. -/
theorem steps_phase {s t : State} {k : Block} {n : Nat} (bs : BusState) (hpos : 0 < n) (hfits : n < 2 ^ 16)
    (hs : s.inbox = []) (hk : s.block = k.startPhase bs (ticks n))
    (harm : exec (handlerArm bs) (s.phaseOver n) = .next t) : steps (n + 1) s = .next t := by
  have hn : (ticks n).toNat = n := ticks_toNat hfits
  have hrun := steps_armed (ticks n) (by bv_omega) s hs
  rw [hn, hk] at hrun
  rw [State.phaseOver, hk] at harm
  exact (hrun rfl rfl rfl rfl).trans harm

/-! ## The statements -/

/-- Settles O25: the decoder's clause is one of O3; no sample is taken, so any answer will do. -/
theorem detectPresenceResult : Obligations.DetectPresenceResult := by
  obtain ⟨_, hcommand⟩ := commandWordsDecodeByOpcode
  refine ⟨hcommand 0x1, fun s => ?_⟩
  obtain ⟨b, l, d, ha⟩ := exists_answers false s
  exact exec_eq_after (by decide) ha

/-- Settles O26: code 1 is the code of `PresenceDriveLow`; no sample is taken, so any answer will do. -/
theorem expPdlResult : Obligations.ExpPdlResult := by
  refine ⟨decode_code .presenceDriveLow, fun s => ?_⟩
  obtain ⟨b, l, d, ha⟩ := exists_answers false s
  exact exec_eq_after (by decide) ha

/-- Settles O27: code 2 is the code of `PresenceSample`; a released line gives an answer, which the arm takes. -/
theorem expPsResult : Obligations.ExpPsResult := by
  refine ⟨decode_code .presenceSample, fun s hreleased => ?_⟩
  obtain ⟨b, l, d, ha⟩ := exists_answers false s
  have hsampled : s.answers s.block.owdrv b l d := by rw [hreleased]; exact ha
  exact ⟨b, l, d, ha, exec_eq_after (by decide) hsampled⟩

/-- Settles O29: code 3 is the code of `PresenceRecovery`; the arm clears the event and ends the operation. -/
theorem expPrResult : Obligations.ExpPrResult :=
  ⟨decode_code .presenceRecovery, fun _ => rfl⟩

/-- Settles O30: three phases in a row. The line is released before the sample, and nothing has taken from its answers
by then; the last arm is that of O29. -/
theorem presenceSequenceRunsToIdle : Obligations.PresenceSequenceRunsToIdle := by
  intro s b l d hs hbs ha
  obtain ⟨_, hlast⟩ := expPrResult
  refine ⟨s.after .detectPresence b l d, exec_eq_after (by decide) ha, ?_⟩
  show steps ((Config.tPresLow + 1) + ((Config.tPresSample + 1) + (Config.tPresRec + 1))) _ = _
  refine steps_then (steps_phase .presenceDriveLow (by decide) (by decide) hs rfl
    (exec_eq_after (i := .expPdl) (by decide) (by exact ha))) ?_
  refine steps_then (steps_phase .presenceSample (by decide) (by decide) (by exact hs) (by rfl)
    (exec_eq_after (i := .expPs) (by decide) (by exact ha))) ?_
  refine steps_phase .presenceRecovery (by decide) (by decide) (by exact hs) (by rfl) ?_
  refine (hlast _).trans ?_
  simp [State.phaseOver, quiet, State.after, Block.after, Block.startPhase, Block.response,
    Block.samples, Block.busyTicks, Block.events, hbs, Nat.add_assoc]

end Sys2Proof.Machine
end

section
/-! The bit operations (spec/43_bit_ops.md): the busy-wait, what the two bit commands leave, and a standalone bit from its
command to `Idle`: O19 and O31 to O33. -/

namespace Sys2Proof.Machine

/-! ## The busy-wait -/

/-- Core's repetition and Mathlib's iteration apply the function the same number of times. -/
theorem repeat_eq_iterate {α : Type} (f : α → α) (n : Nat) (x : α) : Nat.repeat f n x = f^[n] x := by
  induction n with
  | zero => rfl
  | succ n ih => rw [Function.iterate_succ_apply', ← ih, Nat.repeat]

/-- Settles O19: `busyWait_eq` for what it leaves; its registers are those of n ticks, as `emit` writes none. -/
theorem busyWaitIsNTicks : Obligations.BusyWaitIsNTicks := by
  intro n s
  obtain ⟨c, r, p, h⟩ := busyWait_eq n s
  exact ⟨c, r, p, h, (tickN_block n s).trans (repeat_eq_iterate _ _ _).symm⟩

/-! ## The two bit commands -/

/-- The recovery of a write slot in ticks, by the bit sent (43_bit_ops.md R90). -/
theorem writeRecoveryTicks_eq (b : Bit) : writeRecoveryTicks b = if b = 1 then 128 else 20 :=
  apply_ite ticks _ _ _

/-- All that WRITE_BIT does (43_bit_ops.md R90); it takes no sample, so any answer will do. -/
theorem exec_writeBit (b : Bit) (s : State) :
    exec (.writeBit b) s = .next
      { s with
        block := s.block.writeSlot b
        rsp := some 0x00
        now := s.now + writeLowTicks b
        trace := s.trace ++ writeSlotTrace b } := by
  obtain ⟨_, _, _, ha⟩ := exists_answers false s
  exact exec_eq_after (by simp) ha

/-- All that READ_BIT does with the environment's answer (43_bit_ops.md R91). -/
theorem exec_readBit {s : State} {b : Bit} {l : List Bit} {d : Nat} (ha : s.answers false b l d) :
    exec .readBit s = .next
      { s with
        block := s.block.readSlot b
        rsp := some (levelResponse b)
        line := l
        draws := d
        now := s.now + (Config.tRdInit + Config.tRdSample)
        trace := s.trace ++ readSlotTrace b } :=
  exec_eq_after (by decide) ha

/-- Settles O31: the decoder's clause is one of O3; the durations of the write slot are those of the bit. -/
theorem writeBitResult : Obligations.WriteBitResult := by
  obtain ⟨_, hcommand⟩ := commandWordsDecodeByOpcode
  refine ⟨hcommand 0x3, fun b s => ?_⟩
  rw [exec_writeBit, Block.writeSlot, writeSlotTrace, writeRecoveryTicks_eq]
  rfl

/-- Settles O32: the decoder's clause is one of O3; the environment has an answer, which the slot samples. -/
theorem readBitResult : Obligations.ReadBitResult := by
  obtain ⟨_, hcommand⟩ := commandWordsDecodeByOpcode
  refine ⟨hcommand 0x4, fun s => ?_⟩
  obtain ⟨b, l, d, ha⟩ := exists_answers false s
  exact ⟨b, l, d, ha, exec_readBit ha⟩

/-! ## A standalone bit -/

/-- The arm of either write recovery ends the operation when no bit is left (44_byte_ops.md R102). -/
theorem exec_writeRecoveryState_last (b : Bit) {s : State} (h : s.block.rem = 0) :
    exec (handlerArm (writeRecoveryState b)) s = .next
      { s with block := s.block.finish, trace := s.trace ++ [.exp] } := by
  have harm : exec (handlerArm (writeRecoveryState b)) s = .next (writeRecoveryArm (enterHandler s)) := by
    obtain rfl | rfl := BitVec.eq_zero_or_eq_one b
    · rfl
    · rfl
  rw [harm, writeRecoveryArm_last (by exact h)]
  rfl

/-- The arm of the read recovery takes the mailbox and ends the operation when no bit is left (44_byte_ops.md R103). -/
theorem exec_expRr_last {s : State} (h : s.block.rem = 0) :
    exec .expRr s = .next
      { s with
        block := { s.block with val := accumulate s.block.last s.block.val, last := .notReady }.finish
        trace := s.trace ++ [.exp] } := by
  rw [exec, execExpRr, readRecoveryArm_last (by exact h)]
  rfl

/-- The sample of a standalone read reaches `VAL` through the mailbox: a 1 sets bit 7, a 0 is lost (43_bit_ops.md R93). -/
theorem accumulate_bitMailbox (b : Bit) (v : Byte) :
    accumulate (bitMailbox b) v = if b = 1 then v ||| 0x80 else v := by
  obtain rfl | rfl := BitVec.eq_zero_or_eq_one b
  · rfl
  · rfl

theorem writeRecoveryTicks_ne_zero (b : Bit) : writeRecoveryTicks b ≠ 0 := by
  revert b
  decide

/-- Settles O33: the command leaves its recovery armed and `REM` at 0, so after the recovery's ticks the arm of its bus
state ends the operation; the slot takes 140 ticks whatever it sends or samples. -/
theorem standaloneBitEndsAfterOneHandlerRun : Obligations.StandaloneBitEndsAfterOneHandlerRun := by
  refine ⟨fun s b hs hrem => ⟨_, exec_writeBit b s, ?_⟩, fun s hs hrem => ?_⟩
  · rw [steps_armed (writeRecoveryTicks b) (writeRecoveryTicks_ne_zero b) _ (by exact hs) rfl rfl rfl rfl]
    refine (exec_writeRecoveryState_last b (by exact hrem)).trans ?_
    rw [← writeRecoveryTicks_eq, ← writeSlot_ticks b, ← Nat.add_assoc]
    rfl
  · obtain ⟨b, l, d, ha⟩ := exists_answers false s
    refine ⟨b, l, d, _, ha, exec_readBit ha, ?_⟩
    refine steps_phase .readRecovery (by decide) (by decide) (by exact hs) (by rfl)
      ((exec_expRr_last (by exact hrem)).trans ?_)
    rw [← accumulate_bitMailbox]
    rfl

end Sys2Proof.Machine
end

section
/-! Byte transfer (spec/44_byte_ops.md): what the two byte commands and the recovery arms leave, and a byte from its
command to `Idle`, bit by bit: O34 to O39. -/

namespace Sys2Proof.Machine

/-! ## The two byte commands -/

/-- All that WRITE_BYTE does (44_byte_ops.md R100); it takes no sample, so any answer will do. -/
theorem exec_writeByte (v : Byte) (s : State) :
    exec (.writeByte v) s = .next
      { s with
        block := { s.block with val := v, rem := 7, dir := .write }.writeSlot (nextBit v)
        rsp := some 0x00
        now := s.now + writeLowTicks (nextBit v)
        trace := s.trace ++ writeSlotTrace (nextBit v) } := by
  obtain ⟨_, _, _, ha⟩ := exists_answers false s
  exact exec_eq_after nofun ha

/-- All that START_READ_BYTE does with the environment's answer (44_byte_ops.md R101). -/
theorem exec_startReadByte {s : State} {b : Bit} {l : List Bit} {d : Nat} (ha : s.answers false b l d) :
    exec .startReadByte s = .next
      { s with
        block := { s.block with val := 0x00, rem := 7, dir := .read }.readSlot b
        rsp := some 0x00
        line := l
        draws := d
        now := s.now + (Config.tRdInit + Config.tRdSample)
        trace := s.trace ++ readSlotTrace b } :=
  exec_eq_after (by decide) ha

/-- Settles O34: the decoder's clause is one of O3; the durations of the slot are those of bit 0. -/
theorem writeByteResult : Obligations.WriteByteResult := by
  obtain ⟨_, hcommand⟩ := commandWordsDecodeByOpcode
  refine ⟨hcommand 0x5, fun v s => ?_⟩
  rw [exec_writeByte, Block.writeSlot, writeRecoveryTicks_eq]
  rfl

/-- Settles O35: the decoder's clause is one of O3; the environment has an answer, which the slot samples. -/
theorem startReadByteResult : Obligations.StartReadByteResult := by
  obtain ⟨_, hcommand⟩ := commandWordsDecodeByOpcode
  refine ⟨hcommand 0x6, fun s => ?_⟩
  obtain ⟨b, l, d, ha⟩ := exists_answers false s
  exact ⟨b, l, d, ha, exec_startReadByte ha⟩

/-! ## The recovery arms while bits remain -/

/-- The arm of either write recovery shifts and starts the next slot while bits remain (44_byte_ops.md R102). -/
theorem exec_writeRecoveryState_more (b : Bit) {s : State} (h : s.block.rem ≠ 0) :
    exec (handlerArm (writeRecoveryState b)) s = .next
      (writeBitBody (nextBit (shiftRight s.block.val))
        { s with
          block := { s.block with val := shiftRight s.block.val, rem := s.block.rem - 1, pend := false }
          trace := s.trace ++ [.exp] }) := by
  have harm : exec (handlerArm (writeRecoveryState b)) s = .next (writeRecoveryArm (enterHandler s)) := by
    obtain rfl | rfl := BitVec.eq_zero_or_eq_one b
    · rfl
    · rfl
  rw [harm, writeRecoveryArm_more (by exact h)]
  rfl

/-- The arm of the read recovery takes the mailbox, shifts and starts the next slot while bits remain
(44_byte_ops.md R103). -/
theorem exec_expRr_more {s : State} (h : s.block.rem ≠ 0) :
    exec .expRr s = .next
      (readBitBody
        { s with
          block := { s.block with val := shiftRight (accumulate s.block.last s.block.val), last := .notReady,
                                  rem := s.block.rem - 1, pend := false }
          trace := s.trace ++ [.exp] }).2 := by
  rw [exec, execExpRr, readRecoveryArm_more (by exact h)]
  rfl

/-- Settles O36: codes 4 and 5 are those of the two recovery states, whose arms act alike; the bit sent next is bit 1 of
the byte before the shift. -/
theorem writeRecoveryResult : Obligations.WriteRecoveryResult := by
  refine ⟨decode_code .write0Recovery, decode_code .write1Recovery, fun s i hi => ?_⟩
  obtain ⟨b, rfl⟩ : ∃ b, i = handlerArm (writeRecoveryState b) := hi.elim (⟨0, ·⟩) (⟨1, ·⟩)
  refine ⟨exec_writeRecoveryState_last b, fun h => ?_⟩
  rw [exec_writeRecoveryState_more b h, writeBitBody_eq_writeSlot, Block.writeSlot, writeRecoveryTicks_eq,
    nextBit_shiftRight]
  rfl

/-- Settles O37: code 6 is the code of `ReadRecovery`; with bits left the environment has an answer, which the next slot
samples. -/
theorem readRecoveryResult : Obligations.ReadRecoveryResult := by
  refine ⟨decode_code .readRecovery, fun s => ⟨exec_expRr_last, fun h => ?_⟩⟩
  obtain ⟨b, l, d, ha⟩ := exists_answers false s
  refine ⟨b, l, d, ha, ?_⟩
  rw [exec_expRr_more h, readBitBody_of_answers (by exact ha)]
  rfl

/-! ## The byte as a shift register, least significant bit first -/

theorem extractLsb'_shiftRight_one (v : Byte) (i : Nat) : (v >>> 1).extractLsb' i 1 = v.extractLsb' (1 + i) 1 := by
  ext j hj
  simp [Nat.add_assoc]

/-- Of a shifted byte the bits come one place earlier, and a 0 last. -/
theorem busBits_shiftRight (v : Byte) : busBits (shiftRight v) = (busBits v).tail ++ [0] := by
  have htop : v.extractLsb' 8 1 = 0 := by ext i hi; simp
  simp [busBits, shiftRight, extractLsb'_shiftRight_one, htop]

theorem busBits_insertTop (v : Byte) : busBits (insertTop v) = (busBits v).dropLast ++ [1] := by
  have htop (b : Bit) : b ||| 1#1 = 1#1 := by revert b; decide
  simp [busBits, insertTop, BitVec.extractLsb'_or, htop]

/-- The bits of a byte that a write slot still has to send are its low one and those of the shifted byte. -/
theorem busBits_take_succ (v : Byte) {n : Nat} (hn : n ≤ 7) :
    (busBits v).take (n + 1) = nextBit v :: (busBits (shiftRight v)).take n := by
  rw [busBits_shiftRight, List.take_append_of_le_length (by exact hn)]
  rfl

/-- One sample on its way into the accumulator: the shift before it, then the mailbox (44_byte_ops.md R103). -/
def collectBit (v : Byte) (b : Bit) : Byte := accumulate (bitMailbox b) (shiftRight v)

/-- A sample enters last of the bits and pushes out the first. -/
theorem busBits_collectBit (v : Byte) (b : Bit) : busBits (collectBit v b) = (busBits v).tail ++ [b] := by
  obtain rfl | rfl := BitVec.eq_zero_or_eq_one b
  · exact busBits_shiftRight v
  · refine (busBits_insertTop _).trans ?_
    rw [busBits_shiftRight, List.dropLast_concat]
    rfl

/-- Of the bits before and the samples, those that entered last are left. -/
theorem busBits_foldl_collectBit (samples : List Bit) (v : Byte) :
    busBits (samples.foldl collectBit v) = (busBits v ++ samples).drop samples.length := by
  induction samples generalizing v with
  | nil => rfl
  | cons b rest ih =>
    rw [List.foldl_cons, ih, busBits_collectBit, List.append_assoc]
    rfl

theorem levels_length (n : Nat) (l : List Bit) (d : Nat) : (levels n l d).length = n := by
  induction n generalizing l d with
  | zero => rfl
  | succ n ih =>
    cases l with
    | nil => exact congrArg (· + 1) (ih _ _)
    | cons b l => exact congrArg (· + 1) (ih _ _)

/-- Eight samples are the whole byte, whatever it held before. -/
theorem busBits_foldl_levels (v : Byte) (l : List Bit) (d : Nat) :
    busBits ((levels 8 l d).foldl collectBit v) = levels 8 l d := by
  rw [busBits_foldl_collectBit, levels_length]
  rfl

/-! ## A slot and its handler run -/

/-- Where the head of the next slot begins, with v to be shifted further: the slot before it has left its events, the
handler has been entered, and what both wrote into the other registers the head writes anew. -/
def State.nextSlot (v : Byte) (slot : List TraceEvent) (s : State) : State :=
  { quiet s with
    block := { s.block with val := v, rem := s.block.rem - 1 }
    now := s.now + 140
    trace := s.trace ++ (slot ++ [.exp]) }

/-- Where an operation whose last recovery was armed with c ends: in `Idle`, m ticks and the events e after s. -/
def State.ended (v : Byte) (c : Ticks) (m : Nat) (e : List TraceEvent) (s : State) : State :=
  { quiet s with
    block := { s.block with bs := .idle, val := v, rem := 0, owdrv := false, cnt := c, cmp := c, run := false,
                            pend := false }
    now := s.now + m
    trace := s.trace ++ e }

/-- The next n levels are taken from the environment, and the mailbox is empty again. -/
def State.sampled (n : Nat) (s : State) : State :=
  { s with
    block := { s.block with last := .notReady }
    line := s.line.drop n
    draws := s.draws + (n - s.line.length) }

/-- The first of the levels is the answer, and the others come after it. -/
theorem sampled_succ {s : State} {b : Bit} {l : List Bit} {d : Nat} (ha : s.answers false b l d) (n : Nat) :
    s.sampled (n + 1) = { s with line := l, draws := d }.sampled n := by
  obtain ⟨_, hline, hdraws⟩ := answers_levels ha n
  rw [State.sampled, hline, hdraws]
  rfl

theorem sampled_zero (s : State) : s.sampled 0 = { s with block := { s.block with last := .notReady } } := by
  simp [State.sampled]

theorem nextSlot_sampled (v : Byte) (slot : List TraceEvent) (n : Nat) (s : State) :
    (s.nextSlot v slot).sampled n = (s.sampled n).nextSlot v slot := rfl

/-- An end after the next slot is an end after this one. -/
theorem nextSlot_ended (v w : Byte) (slot e : List TraceEvent) (c : Ticks) (m : Nat) (s : State) :
    (s.nextSlot v slot).ended w c m e = s.ended w c (140 + m) (slot ++ [.exp] ++ e) := by
  simp [State.nextSlot, State.ended, quiet, Nat.add_assoc]

/-- A write slot is in its handler run 140 ticks after its head began. -/
theorem steps_writeSlot (b : Bit) {s : State} (hs : s.inbox = []) :
    steps ((writeRecoveryTicks b).toNat + 1) (writeBitBody b s) =
      exec (handlerArm (writeRecoveryState b))
        { quiet s with
          block := { s.block.writeSlot b with cnt := writeRecoveryTicks b, run := false, pend := true }
          now := s.now + 140
          trace := s.trace ++ writeSlotTrace b } := by
  rw [writeBitBody_eq_writeSlot,
    steps_armed (writeRecoveryTicks b) (writeRecoveryTicks_ne_zero b) _ (by exact hs) rfl rfl rfl rfl,
    ← writeSlot_ticks b, ← Nat.add_assoc]
  rfl

theorem steps_writeSlot_last (b : Bit) {s : State} (hs : s.inbox = []) (h : s.block.rem = 0) :
    steps ((writeRecoveryTicks b).toNat + 1) (writeBitBody b s) =
      .next (s.ended s.block.val (writeRecoveryTicks b) 140 (writeSlotTrace b ++ [.exp])) := by
  rw [steps_writeSlot b hs, exec_writeRecoveryState_last b (by exact h), State.ended, ← h, ← List.append_assoc]
  rfl

theorem steps_writeSlot_more (b : Bit) {s : State} (hs : s.inbox = []) (h : s.block.rem ≠ 0) :
    steps ((writeRecoveryTicks b).toNat + 1) (writeBitBody b s) =
      .next (writeBitBody (nextBit (shiftRight s.block.val))
        (s.nextSlot (shiftRight s.block.val) (writeSlotTrace b))) := by
  rw [steps_writeSlot b hs, exec_writeRecoveryState_more b (by exact h), writeBitBody_eq_writeSlot,
    writeBitBody_eq_writeSlot, State.nextSlot, ← List.append_assoc s.trace]
  rfl

/-- A read slot that samples b is in its handler run 140 ticks after its head began. -/
theorem steps_readSlot {s : State} {b : Bit} {l : List Bit} {d : Nat} (hs : s.inbox = [])
    (ha : s.answers false b l d) :
    steps (Config.tRdRec + 1) (readBitBody s).2 =
      exec .expRr
        { quiet s with
          block := { s.block.readSlot b with cnt := ticks Config.tRdRec, run := false, pend := true }
          line := l
          draws := d
          now := s.now + 140
          trace := s.trace ++ readSlotTrace b } := by
  rw [readBitBody_of_answers ha]
  exact steps_armed (ticks Config.tRdRec) (by decide) _ (by exact hs) rfl rfl rfl rfl

theorem steps_readSlot_last {s : State} {b : Bit} {l : List Bit} {d : Nat} (hs : s.inbox = [])
    (ha : s.answers false b l d) (h : s.block.rem = 0) :
    steps (Config.tRdRec + 1) (readBitBody s).2 = .next
      ((s.sampled 1).ended (accumulate (bitMailbox b) s.block.val) (ticks Config.tRdRec) 140
        (readSlotTrace b ++ [.exp])) := by
  rw [steps_readSlot hs ha, exec_expRr_last (by exact h), sampled_succ ha, sampled_zero, State.ended, ← h,
    ← List.append_assoc]
  rfl

/-- The next slot's head samples the same line, which its answer alone has left changed. -/
theorem steps_readSlot_more {s : State} {b : Bit} {l : List Bit} {d : Nat} (hs : s.inbox = [])
    (ha : s.answers false b l d) (h : s.block.rem ≠ 0) :
    steps (Config.tRdRec + 1) (readBitBody s).2 = .next
      (readBitBody
        ({ s with line := l, draws := d }.nextSlot (shiftRight (accumulate (bitMailbox b) s.block.val))
          (readSlotTrace b))).2 := by
  obtain ⟨b', l', d', ha'⟩ := exists_answers false { s with line := l, draws := d }
  rw [steps_readSlot hs ha, exec_expRr_more (by exact h), readBitBody_of_answers (by exact ha'),
    readBitBody_of_answers (by exact ha'), State.nextSlot, ← List.append_assoc s.trace]
  rfl

/-! ## All slots of a byte -/

/-- The slots of a byte from the one under way, with n bits to come after it, end in `Idle` with nothing listed. -/
theorem steps_writeSlots (n : Nat) {s : State} (hs : s.inbox = []) (hrem : s.block.rem.toNat = n) :
    ∃ k c, steps k (writeBitBody (nextBit s.block.val) s) = .next
      (s.ended (s.block.val >>> n) c (140 * (n + 1))
        (((busBits s.block.val).take (n + 1)).flatMap fun b => writeSlotTrace b ++ [TraceEvent.exp])) := by
  induction n generalizing s with
  | zero =>
    exact ⟨_, writeRecoveryTicks (nextBit s.block.val),
      (steps_writeSlot_last _ hs (by bv_omega)).trans (by simp [busBits, nextBit])⟩
  | succ n ih =>
    obtain ⟨k, c, hrest⟩ := ih (s := s.nextSlot (shiftRight s.block.val) (writeSlotTrace (nextBit s.block.val)))
      hs (by simp only [State.nextSlot]; bv_omega)
    have hslot := steps_writeSlot_more (nextBit s.block.val) hs (by bv_omega)
    refine ⟨_, c, (steps_then hslot hrest).trans ?_⟩
    rw [nextSlot_ended, busBits_take_succ s.block.val (by omega), List.flatMap_cons,
      show 140 + 140 * (n + 1) = 140 * (n + 1 + 1) by omega, Nat.add_comm n 1, BitVec.shiftRight_add]
    rfl

/-- The same of a byte read, whose accumulator w is already shifted when a slot begins. -/
theorem steps_readSlots (n : Nat) {s : State} {w : Byte} (hs : s.inbox = []) (hrem : s.block.rem.toNat = n)
    (hval : s.block.val = shiftRight w) :
    ∃ k, steps k (readBitBody s).2 = .next
      ((s.sampled (n + 1)).ended ((levels (n + 1) s.line s.draws).foldl collectBit w) (ticks Config.tRdRec)
        (140 * (n + 1)) ((levels (n + 1) s.line s.draws).flatMap fun b => readSlotTrace b ++ [TraceEvent.exp])) := by
  induction n generalizing s w with
  | zero =>
    obtain ⟨b, l, d, ha⟩ := exists_answers false s
    obtain ⟨hlevels, _⟩ := answers_levels ha 0
    refine ⟨_, (steps_readSlot_last hs ha (by bv_omega)).trans ?_⟩
    rw [hlevels, hval]
    rfl
  | succ n ih =>
    obtain ⟨b, l, d, ha⟩ := exists_answers false s
    obtain ⟨hlevels, _⟩ := answers_levels ha (n + 1)
    have hslot := steps_readSlot_more hs ha (by bv_omega)
    rw [hval, ← collectBit] at hslot
    obtain ⟨k, hrest⟩ := ih
      (s := { s with line := l, draws := d }.nextSlot (shiftRight (collectBit w b)) (readSlotTrace b))
      hs (by simp only [State.nextSlot]; bv_omega) rfl
    refine ⟨_, (steps_then hslot hrest).trans ?_⟩
    rw [nextSlot_sampled, nextSlot_ended, ← sampled_succ ha, hlevels,
      show 140 + 140 * (n + 1) = 140 * (n + 1 + 1) by omega]
    rfl

/-! ## The statements -/

/-- Settles O38: the command begins the slot of bit 0 with seven to come. -/
theorem writeByteSendsEightBitsLsbFirst : Obligations.WriteByteSendsEightBitsLsbFirst := by
  intro s v hs
  obtain ⟨k, c, h⟩ := steps_writeSlots 7
    (s := { s with block := { s.block with val := v, rem := 7, dir := .write }, rsp := some 0x00 }) hs rfl
  rw [writeBitBody_eq_writeSlot] at h
  exact ⟨_, k, _, exec_writeByte v s, h, rfl, rfl, rfl, rfl, rfl, rfl, rfl, rfl, rfl, rfl, rfl, rfl⟩

/-- Settles O39: the command begins the first slot with seven to come; the byte is what eight samples make of the
cleared accumulator. -/
theorem readByteCollectsEightSamplesLsbFirst : Obligations.ReadByteCollectsEightSamplesLsbFirst := by
  intro s hs
  obtain ⟨b, l, d, ha⟩ := exists_answers false s
  obtain ⟨k, h⟩ := steps_readSlots 7 (w := 0)
    (s := { s with block := { s.block with val := 0x00, rem := 7, dir := .read }, rsp := some 0x00 }) hs rfl rfl
  rw [readBitBody_of_answers (by exact ha)] at h
  have hbits := busBits_foldl_levels 0 s.line s.draws
  refine ⟨_, _, k, _, hbits.symm, exec_startReadByte ha, h, rfl, rfl, rfl, rfl, rfl, rfl, rfl, rfl, rfl, rfl, rfl, ?_⟩
  rw [hbits]
  rfl

end Sys2Proof.Machine
end

section
/-! SUPPORT. What the host's commands and its task do, said once (spec/48_host_sequencer.md R110, R120): with the
transport idle a command is performed as it is, and a call of the task is one row of the table. -/

namespace Sys2Proof.Machine

/-! ## Commands of the host -/

section command
variable {i : Instr} {f : Sequencer → Sequencer} {s t : State}

/-- In `Idle` the idle duty cannot be broken, so every command is performed in every run (R163). -/
theorem issue_inIdle (h : s.block.bs = .idle) : issue i s = exec i s :=
  issue_dutiful fun _ => by simp [breaksIdleDuty, State.idlePort, h]

/-- A command leaves the host's variables alone. -/
theorem issue_seq (h : issue i s = .next t) : t.seq = s.seq :=
  keeps_issue (I := fun u => u.seq = s.seq) (fun _ _ _ _ hu _ => hu) s t rfl h

theorem issueThen_seq (h : issueThen i f s = .next t) : t.seq = f s.seq := by
  obtain ⟨u, hu, ht⟩ := andThen_eq_next.1 h
  cases ht
  rw [onSeq_seq, issue_seq hu]

/-- The command is performed, and the variables that it has left alone are then written. -/
theorem issueThen_inIdle (h : s.block.bs = .idle) :
    issueThen i f s = andThen (exec i s) fun t => .next { t with seq := f s.seq } := by
  rw [issueThen, issue_inIdle h]
  cases he : exec i s with
  | next t =>
    obtain ⟨b, l, d, _, rfl⟩ := exec_eq_next he
    rfl
  | fault r => rfl
  | refused r => rfl

/-- Every instruction but ARM 0 answers a next state. -/
theorem exec_answers (hi : i ≠ .arm 0) (s : State) : ∃ t, exec i s = .next t := by
  obtain ⟨b, l, d, ha⟩ := exists_answers (s.block.drivesAtSample i) s
  exact ⟨_, exec_eq_after hi ha⟩

theorem exec_andThen_answers (hi : i ≠ .arm 0) (g : State → State) (s : State) :
    ∃ t, andThen (exec i s) (fun u => .next (g u)) = .next t := by
  obtain ⟨u, hu⟩ := exec_answers hi s
  exact ⟨g u, by rw [hu, andThen_next]⟩

theorem issueThen_answers (hi : i ≠ .arm 0) (h : s.block.bs = .idle) : ∃ t, issueThen i f s = .next t := by
  rw [issueThen_inIdle h]
  exact exec_andThen_answers hi _ s

end command

/-! ## A call of the task -/

section task
variable {s : State}

/-- Row `ErrorFound` waits for nothing (R128). -/
theorem seqTask_errorFound (h : s.seq.state = .errorFound) : seqTask s = seqRowError s := if_pos h

/-- Every other call asks IS_IDLE, and goes on by the answer (R120). -/
theorem seqTask_asks (h : s.seq.state ≠ .errorFound) :
    seqTask s = if s.block.bs = .idle then
        if s.seq.timeoutExpired then .next { s with rsp := some 0x01, seq := serviceTimeout s.seq }
        else seqRow { s with rsp := some 0x01 }
      else .next { s with rsp := some 0x00 } := by
  rw [seqTask, if_neg h, issue_noninitiating rfl, exec_isIdle, andThen_next]
  by_cases hb : s.block.bs = .idle
  · rw [if_pos hb, if_pos hb]
    exact if_pos rfl
  · rw [if_neg hb, if_neg hb]
    exact if_neg (by simp)

/-- The transport is busy. -/
theorem seqTask_busy (h : s.seq.state ≠ .errorFound) (hb : s.block.bs ≠ .idle) :
    seqTask s = .next { s with rsp := some 0x00 } := by
  rw [seqTask_asks h, if_neg hb]

/-- The transport is idle, and a timeout is to be serviced (R129). -/
theorem seqTask_timeout (h : s.seq.state ≠ .errorFound) (hb : s.block.bs = .idle) (ht : s.seq.timeoutExpired = true) :
    seqTask s = .next { s with rsp := some 0x01, seq := serviceTimeout s.seq } := by
  rw [seqTask_asks h, if_pos hb, if_pos ht]

/-- The transport is idle and no timeout is to be serviced: the call is one row of the table (R120). -/
theorem seqTask_row {st : SeqState} (h : s.seq.state = st) (hb : s.block.bs = .idle)
    (ht : s.seq.timeoutExpired = false) (hne : st ≠ .errorFound := by decide) :
    seqTask s = seqRow { s with rsp := some 0x01 } := by
  rw [seqTask_asks (h ▸ hne), if_pos hb, if_neg (by simp [ht])]

end task

/-! ## The row of a state -/

section row
variable {s : State}

theorem seqRow_idle (h : s.seq.state = .idle) : seqRow s = seqRowIdle s := by
  simp only [seqRow, h]

theorem seqRow_detectPresence (h : s.seq.state = .detectPresence) : seqRow s = seqRowDetectPresence s := by
  simp only [seqRow, h]

theorem seqRow_skipAddressing (h : s.seq.state = .skipAddressing) : seqRow s = seqRowSkipAddressing s := by
  simp only [seqRow, h]

theorem seqRow_configurePre (h : s.seq.state = .configurePre) :
    seqRow s = seqRowConfigure Config.cfgAlarmHigh .configureAlarmHigh s := by
  simp only [seqRow, h]

theorem seqRow_configureAlarmHigh (h : s.seq.state = .configureAlarmHigh) :
    seqRow s = seqRowConfigure Config.cfgAlarmLow .configureAlarmLow s := by
  simp only [seqRow, h]

theorem seqRow_configureAlarmLow (h : s.seq.state = .configureAlarmLow) :
    seqRow s = seqRowConfigure Config.cfgResolution .configureResolution s := by
  simp only [seqRow, h]

theorem seqRow_configureResolution (h : s.seq.state = .configureResolution) : seqRow s = seqRowConfigured s := by
  simp only [seqRow, h]

theorem seqRow_convertTemperature (h : s.seq.state = .convertTemperature) : seqRow s = seqRowConvert s := by
  simp only [seqRow, h]

theorem seqRow_readScratchpadCmd (h : s.seq.state = .readScratchpadCmd) : seqRow s = seqRowReadScratchpad s := by
  simp only [seqRow, h]

theorem seqRow_acquiringScratchpad (h : s.seq.state = .acquiringScratchpad) : seqRow s = seqRowAcquire s := by
  simp only [seqRow, h]

end row

/-! ## The rows that read a response -/

section rows
variable {s : State}

/-- Row `DetectPresence` in `Idle` (R122, R125): the mailbox decides, and is emptied by the question. -/
theorem seqRowDetectPresence_inIdle (h : s.block.bs = .idle) :
    seqRowDetectPresence s =
      if s.seq.detectOwed then
        andThen (exec .detectPresence s) fun t => .next { t with seq := { s.seq with detectOwed := false } }
      else if s.block.last = .presenceOk then
        andThen (exec (.writeByte Config.cmdSkip)
            { s with rsp := some 0x01, block := { s.block with last := .notReady } })
          fun t => .next { t with seq := { s.seq with state := .skipAddressing } }
      else .next { s with rsp := some 0x00, block := { s.block with last := .notReady },
                          seq := { s.seq with state := .errorFound } } := by
  rw [seqRowDetectPresence, issueThen_inIdle h, issue_inIdle h, exec_getPresence, andThen_next]
  refine if_congr Iff.rfl rfl ?_
  by_cases hl : s.block.last = .presenceOk
  · rw [if_pos hl, if_pos hl, if_pos rfl, issueThen_inIdle (by exact h)]
  · rw [if_neg hl, if_neg hl]
    exact if_neg (by simp)

/-- READ_BIT answers 0x01 exactly on the level 1 (30_encoding.md R44). -/
theorem levelResponse_eq_one (b : Bit) : levelResponse b = 0x01 ↔ b = 1 := by
  obtain rfl | rfl := BitVec.eq_zero_or_eq_one b
  · decide
  · decide

/-- Row `ConvertTemperature` in `Idle` (R125): the level that READ_BIT samples ends the wait if it is 1. -/
theorem seqRowConvert_inIdle (h : s.block.bs = .idle) {b : Bit} {l : List Bit} {d : Nat} (ha : s.answers false b l d) :
    seqRowConvert s =
      if b = 1 then
        .next { s.after .readBit b l d with
                seq := { s.seq with acquiring := false, conversionFinished := true, state := .detectPresence,
                                    detectOwed := true } }
      else .next (s.after .readBit b l d) := by
  have hexec : exec .readBit s = .next (s.after .readBit b l d) := exec_eq_after (by decide) ha
  rw [seqRowConvert, issue_inIdle h, hexec, andThen_next]
  exact if_congr (Option.some_inj.trans (levelResponse_eq_one b)) rfl rfl

/-- Rows `AcquiringScratchpad` in `Idle` (R126): `VAL` is stored, and the next read is started or the last is over. -/
theorem seqRowAcquire_inIdle (h : s.block.bs = .idle) :
    seqRowAcquire s =
      if s.seq.stored + 1 < 9 then
        exec .startReadByte { s with rsp := some s.block.val, seq := storeByte s.block.val s.seq }
      else .next { s with rsp := some s.block.val, seq := finishAcquisition (storeByte s.block.val s.seq) } := by
  rw [seqRowAcquire, issue_inIdle h]
  exact if_congr Iff.rfl (issue_inIdle (by exact h)) rfl

end rows

/-! ## In `Idle` every row answers a next state, whatever the run refuses (R131) -/

section answers
variable {s : State}

theorem seqRowIdle_answers (h : s.block.bs = .idle) : ∃ t, seqRowIdle s = .next t := by
  unfold seqRowIdle
  split
  · exact issueThen_answers (by nofun) h
  · exact ⟨_, rfl⟩

theorem seqRowDetectPresence_answers (h : s.block.bs = .idle) : ∃ t, seqRowDetectPresence s = .next t := by
  rw [seqRowDetectPresence_inIdle h]
  split_ifs
  · exact exec_andThen_answers (by nofun) _ _
  · exact exec_andThen_answers (by nofun) _ _
  · exact ⟨_, rfl⟩

theorem seqRowSkipAddressing_answers (h : s.block.bs = .idle) : ∃ t, seqRowSkipAddressing s = .next t := by
  unfold seqRowSkipAddressing
  split_ifs
  · exact issueThen_answers (by nofun) h
  · exact issueThen_answers (by nofun) h
  · exact issueThen_answers (by nofun) h
  · exact ⟨_, rfl⟩

theorem seqRowConvert_answers (h : s.block.bs = .idle) : ∃ t, seqRowConvert s = .next t := by
  obtain ⟨b, l, d, ha⟩ := exists_answers false s
  rw [seqRowConvert_inIdle h ha]
  split
  · exact ⟨_, rfl⟩
  · exact ⟨_, rfl⟩

theorem seqRowAcquire_answers (h : s.block.bs = .idle) : ∃ t, seqRowAcquire s = .next t := by
  rw [seqRowAcquire_inIdle h]
  split
  · exact exec_answers (by nofun) _
  · exact ⟨_, rfl⟩

theorem seqRow_answers (h : s.block.bs = .idle) : ∃ t, seqRow s = .next t := by
  unfold seqRow
  cases s.seq.state with
  | idle => exact seqRowIdle_answers h
  | detectPresence => exact seqRowDetectPresence_answers h
  | skipAddressing => exact seqRowSkipAddressing_answers h
  | configurePre => exact issueThen_answers (by nofun) h
  | configureAlarmHigh => exact issueThen_answers (by nofun) h
  | configureAlarmLow => exact issueThen_answers (by nofun) h
  | configureResolution => exact ⟨_, rfl⟩
  | convertTemperature => exact seqRowConvert_answers h
  | readScratchpadCmd => exact issueThen_answers (by nofun) h
  | acquiringScratchpad => exact seqRowAcquire_answers h
  | errorFound => exact ⟨_, rfl⟩

/-- The task, in every state (R120): only a row can be refused, and a row is reached in `Idle` alone. -/
theorem seqTask_answers (s : State) : ∃ t, seqTask s = .next t := by
  by_cases h : s.seq.state = .errorFound
  · exact ⟨_, seqTask_errorFound h⟩
  · rw [seqTask_asks h]
    split_ifs with hb ht
    · exact ⟨_, rfl⟩
    · exact seqRow_answers (by exact hb)
    · exact ⟨_, rfl⟩

/-- The interface, in every state: INIT initiates nothing (R115). -/
theorem seqApi_answers (c : ApiCall) (s : State) : ∃ t, seqApi c s = .next t := by
  cases c with
  | seqInit =>
    rw [seqApi, issueThen, issue_noninitiating rfl]
    exact exec_andThen_answers (by nofun) _ s
  | configure => exact ⟨_, rfl⟩
  | startAcquisition => exact ⟨_, rfl⟩
  | isTemperatureReady => exact ⟨_, rfl⟩
  | getTemperature => exact ⟨_, rfl⟩

end answers

end Sys2Proof.Machine
end

section
/-! The host's task and interface (spec/48_host_sequencer.md): O51, O52, O54 to O60. -/

namespace Sys2Proof.Machine

/-! ## The host initiates only in `Idle` -/

/-- The inputs to come and the run's treatment of breaches, which no move but the taking of an input touches. -/
def State.HasFrame (rest : List Input) (c : Bool) (s : State) : Prop := s.inbox = rest ∧ s.contract = c

theorem hasFrame_kept (rest : List Input) (c : Bool) : KeptByMoves (State.HasFrame rest c) where
  command _ := keeps_issue fun _ _ _ _ h _ => h
  expire := keeps_expireStep fun _ _ _ _ h _ => h
  tick _ h := h
  reset _ h := h
  respond _ _ h := h
  onSeq _ _ h := h
  ret _ _ h := h

/-- The step that takes a listed input answers if its move does, and leaves the list's rest and the contract. -/
theorem step_answers {s : State} {e : Input} {rest : List Input} (hs : s.inbox = e :: rest)
    (he : e.isTimerPort = false) (ha : ∀ u, ∃ t, runInput e u = .next t) :
    ∃ t, step s = .next t ∧ t.inbox = rest ∧ t.contract = s.contract := by
  rw [step_listed hs]
  obtain ⟨t, ht⟩ := ha { s with inbox := rest, rsp := none, ret := none }
  have hkept : Keeps (State.HasFrame rest s.contract) (runInput e) := (hasFrame_kept rest s.contract).runInput he
  exact ⟨t, ht, hkept _ t (by exact ⟨rfl, rfl⟩) ht⟩

/-- Settles O51: both calls answer a next state, and every move keeps the list and the contract. -/
theorem sequencerNeverBreaksTheIdleDuty : Obligations.SequencerNeverBreaksTheIdleDuty := by
  rintro s rest (hs | ⟨c, hs⟩)
  · exact step_answers hs rfl fun u => seqTask_answers _
  · exact step_answers hs rfl (seqApi_answers c)

/-! ## Calls that advance nothing -/

/-- Settles O52: a busy transport, the unconditional row, and `SkipAddressing` with none of its three flags set. -/
theorem sequencerWaitsForIdle : Obligations.SequencerWaitsForIdle := by
  refine ⟨fun s hb hst => seqTask_busy hst hb, fun s hst => seqTask_errorFound hst, ?_⟩
  intro s hb ht hst hcfg hacq hconv
  rw [seqTask_row hst hb ht, seqRow_skipAddressing (by exact hst)]
  simp [seqRowSkipAddressing, hcfg, hacq, hconv]

/-! ## The rows of the table -/

/-- Settles O54: in `Seq.Idle` the two flags decide, in `DetectPresence` the mailbox. -/
theorem sequencerPresenceRows : Obligations.SequencerPresenceRows := by
  intro s hb ht
  refine ⟨fun hst hflag => ?_, fun hst hcfg hacq => ?_, fun hst howed hl => ?_, fun hst howed hl => ?_⟩
  · rw [seqTask_row hst hb ht, seqRow_idle (by exact hst), seqRowIdle, if_pos (by simpa using hflag)]
    exact issueThen_inIdle (by exact hb)
  · rw [seqTask_row hst hb ht, seqRow_idle (by exact hst), seqRowIdle, if_neg (by simp [hcfg, hacq])]
  · rw [seqTask_row hst hb ht, seqRow_detectPresence (by exact hst), seqRowDetectPresence_inIdle (by exact hb),
      if_neg (by simp [howed]), if_pos (by exact hl)]
  · rw [seqTask_row hst hb ht, seqRow_detectPresence (by exact hst), seqRowDetectPresence_inIdle (by exact hb),
      if_neg (by simp [howed]), if_neg (by exact hl)]

/-- Settles O55: in each of the six the row is `issueThen` of the byte, which `Idle` performs. -/
theorem sequencerCommandRows : Obligations.SequencerCommandRows := by
  intro s v n hb ht hrow
  refine Eq.trans ?_ (issueThen_inIdle (f := fun q => { q with state := n }) (by exact hb))
  obtain ⟨hst, hcfg, rfl, rfl⟩ | ⟨hst, hcfg, hacq, rfl, rfl⟩ | ⟨hst, hcfg, hacq, hconv, rfl, rfl⟩ |
    ⟨hst, rfl, rfl⟩ | ⟨hst, rfl, rfl⟩ | ⟨hst, rfl, rfl⟩ := hrow
  · rw [seqTask_row hst hb ht, seqRow_skipAddressing (by exact hst)]
    simp [seqRowSkipAddressing, hcfg]
  · rw [seqTask_row hst hb ht, seqRow_skipAddressing (by exact hst)]
    simp [seqRowSkipAddressing, hcfg, hacq]
  · rw [seqTask_row hst hb ht, seqRow_skipAddressing (by exact hst)]
    simp [seqRowSkipAddressing, hcfg, hacq, hconv]
  · rw [seqTask_row hst hb ht, seqRow_configurePre (by exact hst), seqRowConfigure]
  · rw [seqTask_row hst hb ht, seqRow_configureAlarmHigh (by exact hst), seqRowConfigure]
  · rw [seqTask_row hst hb ht, seqRow_configureAlarmLow (by exact hst), seqRowConfigure]

/-- Settles O56: the level that the environment answers is the response, and decides the poll. -/
theorem sequencerConversionRows : Obligations.SequencerConversionRows := by
  intro s hb ht
  refine ⟨fun hst => ?_, fun hst => ?_, fun hst howed => ?_⟩
  · rw [seqTask_row hst hb ht, seqRow_configureResolution (by exact hst)]
    rfl
  · obtain ⟨b, l, d, ha⟩ := exists_answers false s
    refine ⟨b, l, d, _, ha, exec_eq_after (by decide) (by exact ha), ?_⟩
    rw [seqTask_row hst hb ht, seqRow_convertTemperature (by exact hst),
      seqRowConvert_inIdle (by exact hb) (by exact ha)]
    exact ⟨fun h1 => if_pos h1, fun h0 => if_neg (by simp [h0])⟩
  · rw [seqTask_row hst hb ht, seqRow_detectPresence (by exact hst), seqRowDetectPresence_inIdle (by exact hb),
      if_pos (by exact howed)]

/-- Byte 0 of the scratchpad is the low byte of the temperature (R127). -/
theorem decodeTemperature_toNat (sp : Vector Byte 9) :
    (decodeTemperature sp).toNat = sp[0].toNat + 256 * sp[1].toNat := by
  rw [decodeTemperature, BitVec.toNat_append, ← Nat.shiftLeft_add_eq_or_of_lt sp[0].isLt, Nat.shiftLeft_eq]
  omega

/-- Settles O57; the ninth byte stands at index 8, so the two that are decoded are those stored before. -/
theorem sequencerReadRows : Obligations.SequencerReadRows := by
  intro s hb ht
  refine ⟨fun hst => ?_, fun hst hn => ?_, fun hst hn => ?_⟩
  · rw [seqTask_row hst hb ht, seqRow_readScratchpadCmd (by exact hst)]
    exact issueThen_inIdle (by exact hb)
  · have hmore : s.seq.stored + 1 < 9 := by omega
    rw [seqTask_row hst hb ht, seqRow_acquiringScratchpad (by exact hst), seqRowAcquire_inIdle (by exact hb)]
    exact if_pos hmore
  · have hlast : ¬s.seq.stored + 1 < 9 := by omega
    rw [seqTask_row hst hb ht, seqRow_acquiringScratchpad (by exact hst), seqRowAcquire_inIdle (by exact hb)]
    refine ⟨_, if_neg hlast, rfl, rfl, rfl, rfl, ?_, ?_, ?_⟩
    · simp [finishAcquisition, storeByte, hn]
    · simp [finishAcquisition, storeByte, hn]
    · simp [finishAcquisition, storeByte, hn, decodeTemperature_toNat]

/-! ## The interface -/

/-- Settles O58, by the two flags that `Configure()` looks at. -/
theorem configureIsIdempotent : Obligations.ConfigureIsIdempotent := by
  intro s rest hs
  refine ⟨_, step_listed hs, rfl, fun hset => ?_, fun hcfgd hcfg => ?_⟩
  · exact if_pos (by simpa using hset)
  · exact if_neg (by simp [hcfgd, hcfg])

/-- Settles O59, by the four variables that `StartAcquisition()` looks at. -/
theorem startAcquisitionIsRejectedWhenBusy : Obligations.StartAcquisitionIsRejectedWhenBusy := by
  intro s rest hs
  refine ⟨_, step_listed hs, rfl, fun hbusy => ?_, fun hcfgd hcfg hacq hst => ?_⟩
  · exact if_pos (by simpa [seqBusy, or_assoc] using hbusy)
  · exact if_neg (by simp [seqBusy, hcfgd, hcfg, hacq, hst])

/-- Settles O60: each call is its own input, and no command. -/
theorem temperatureReadsConsumeTheReadyFlag : Obligations.TemperatureReadsConsumeTheReadyFlag :=
  fun _ _ => ⟨step_listed, step_listed⟩

end Sys2Proof.Machine
end

section
/-! `Initialize()` and the time of an acquisition (spec/48_host_sequencer.md R115, R129): O53. While an acquisition is
under way every move but an interface call leaves it under way, or ends its window: by the ready flag, by the expired
timeout or by `ErrorFound`. -/

namespace Sys2Proof.Machine

/-- What a scheduler tick does before its task call, with its condition in words (R129; log 22). -/
theorem countTick_eq_ite (q : Sequencer) :
    countTick q =
      if q.configuring = false ∧ (q.acquiring = true ∨ q.state ≠ .idle) then
        { q with waited := q.waited + 1,
                 timeoutExpired := q.timeoutExpired || decide (Config.acqTimeoutTicks ≤ q.waited + 1) }
      else q :=
  if_congr (acquisitionUnderWay_iff q) rfl rfl

/-- What servicing a timeout does, with its condition in words (R129; log 22). -/
theorem serviceTimeout_eq_ite (q : Sequencer) :
    serviceTimeout q =
      if q.configuring = false ∧ (q.acquiring = true ∨ q.state ≠ .idle) then
        { q with timeoutExpired := false, state := .errorFound, detectOwed := false, waited := 0 }
      else { q with timeoutExpired := false } :=
  if_congr (acquisitionUnderWay_iff q) rfl rfl

/-! ## The window of an acquisition -/

/-- An acquisition is under way, off the configuration chain. -/
structure Sequencer.InWindow (q : Sequencer) : Prop where
  notConfiguring : q.configuring = false
  underWay : q.acquiring = true ∨ q.state ≠ .idle
  offChain : q.state ∉ [.configurePre, .configureAlarmHigh, .configureAlarmLow, .configureResolution]

/-- The window is over: the temperature is ready, or its time is, and the temperature is still `old`. -/
def Sequencer.WindowOver (old : BitVec 16) (q : Sequencer) : Prop :=
  q.temperatureReady = true ∨ q.temperature = old ∧ (q.timeoutExpired = true ∨ q.state = .errorFound)

/-- From q to q' the acquisition goes on, and n ticks are counted against it. -/
structure Sequencer.CarriesOn (n : Nat) (q q' : Sequencer) : Prop where
  inWindow : q'.InWindow
  temperature : q'.temperature = q.temperature
  waited : q'.waited = q.waited + n

namespace Sequencer
variable {q q' : Sequencer}

theorem InWindow.stays (h : q.InWindow) : q.CarriesOn 0 q := ⟨h, rfl, rfl⟩

/-- A state of the acquisition is off `Seq.Idle` and the configuration chain, so moving to it carries on. -/
theorem InWindow.moves (h : q.InWindow) (st : SeqState) (hst : q'.state = st) (hcfg : q'.configuring = q.configuring)
    (htemp : q'.temperature = q.temperature) (hwait : q'.waited = q.waited)
    (hoff : st ≠ .idle ∧ st ∉ [.configurePre, .configureAlarmHigh, .configureAlarmLow, .configureResolution] := by
      decide) :
    q.CarriesOn 0 q' := by
  obtain ⟨hidle, hchain⟩ := hoff
  exact ⟨⟨hcfg.trans h.notConfiguring, .inr (hst ▸ hidle), hst ▸ hchain⟩, htemp, hwait⟩

/-- A tick is counted against the acquisition. -/
theorem InWindow.counts (h : q.InWindow) : q.CarriesOn 1 (countTick q) ∧
    ((countTick q).timeoutExpired = false → q.waited + 1 < Config.acqTimeoutTicks) := by
  obtain ⟨hcfg, hacq, hchain⟩ := h
  rw [countTick_eq_ite, if_pos ⟨hcfg, hacq⟩]
  exact ⟨⟨⟨hcfg, hacq, hchain⟩, rfl, rfl⟩, fun he => by simpa using (Bool.or_eq_false_iff.1 he).2⟩

/-- An expired timeout takes the acquisition to `ErrorFound` (R129). -/
theorem InWindow.serviced (h : q.InWindow) : (serviceTimeout q).WindowOver q.temperature := by
  obtain ⟨hcfg, hacq, _⟩ := h
  rw [serviceTimeout_eq_ite, if_pos ⟨hcfg, hacq⟩]
  exact .inr ⟨rfl, .inr rfl⟩

end Sequencer

/-! ## Every row in the window -/

section rows
variable {s t : State} (hw : s.seq.InWindow)
include hw

theorem seqRowIdle_carriesOn (h : seqRowIdle s = .next t) : s.seq.CarriesOn 0 t.seq := by
  unfold seqRowIdle at h
  split at h
  · rw [issueThen_seq h]
    exact hw.moves .detectPresence rfl rfl rfl rfl
  · cases h
    exact hw.stays

theorem seqRowDetectPresence_carriesOn (hst : s.seq.state = .detectPresence) (h : seqRowDetectPresence s = .next t) :
    s.seq.CarriesOn 0 t.seq := by
  unfold seqRowDetectPresence at h
  split at h
  · rw [issueThen_seq h]
    exact hw.moves _ hst rfl rfl rfl
  · obtain ⟨u, hu, ht⟩ := andThen_eq_next.1 h
    rw [← issue_seq hu] at hw ⊢
    split at ht
    · rw [issueThen_seq ht]
      exact hw.moves .skipAddressing rfl rfl rfl rfl
    · cases ht
      exact hw.moves .errorFound rfl rfl rfl rfl

theorem seqRowSkipAddressing_carriesOn (h : seqRowSkipAddressing s = .next t) : s.seq.CarriesOn 0 t.seq := by
  unfold seqRowSkipAddressing at h
  rw [if_neg (by simp [hw.notConfiguring])] at h
  split_ifs at h
  · rw [issueThen_seq h]
    exact hw.moves .convertTemperature rfl rfl rfl rfl
  · rw [issueThen_seq h]
    exact hw.moves .readScratchpadCmd rfl rfl rfl rfl
  · cases h
    exact hw.stays

theorem seqRowConvert_carriesOn (h : seqRowConvert s = .next t) : s.seq.CarriesOn 0 t.seq := by
  obtain ⟨u, hu, ht⟩ := andThen_eq_next.1 h
  rw [← issue_seq hu] at hw ⊢
  split at ht
  · cases ht
    exact hw.moves .detectPresence rfl rfl rfl rfl
  · cases ht
    exact hw.stays

/-- The last byte makes the temperature ready (R126); every other is followed by the next read. -/
theorem seqRowAcquire_carriesOn (hst : s.seq.state = .acquiringScratchpad) (h : seqRowAcquire s = .next t) :
    t.seq.temperatureReady = true ∨ s.seq.CarriesOn 0 t.seq := by
  obtain ⟨u, hu, ht⟩ := andThen_eq_next.1 h
  rw [← issue_seq hu] at hw hst ⊢
  dsimp only at ht
  split at ht
  · rw [issue_seq ht]
    exact .inr (hw.moves _ hst rfl rfl rfl)
  · cases ht
    exact .inl rfl

theorem seqRow_carriesOn (hne : s.seq.state ≠ .errorFound) (h : seqRow s = .next t) :
    t.seq.temperatureReady = true ∨ s.seq.CarriesOn 0 t.seq := by
  have hchain := hw.offChain
  cases hst : s.seq.state with
  | idle => exact .inr (seqRowIdle_carriesOn hw (seqRow_idle hst ▸ h))
  | detectPresence => exact .inr (seqRowDetectPresence_carriesOn hw hst (seqRow_detectPresence hst ▸ h))
  | skipAddressing => exact .inr (seqRowSkipAddressing_carriesOn hw (seqRow_skipAddressing hst ▸ h))
  | configurePre => simp [hst] at hchain
  | configureAlarmHigh => simp [hst] at hchain
  | configureAlarmLow => simp [hst] at hchain
  | configureResolution => simp [hst] at hchain
  | convertTemperature => exact .inr (seqRowConvert_carriesOn hw (seqRow_convertTemperature hst ▸ h))
  | readScratchpadCmd =>
    rw [seqRow_readScratchpadCmd hst] at h
    rw [issueThen_seq h]
    exact .inr (hw.moves .acquiringScratchpad rfl rfl rfl rfl)
  | acquiringScratchpad => exact seqRowAcquire_carriesOn hw hst (seqRow_acquiringScratchpad hst ▸ h)
  | errorFound => exact absurd hst hne

end rows

/-! ## Every move in the window, and a run -/

section moves
variable {s t : State}

/-- A call of the task with the timeout expired: a busy transport leaves it so, an idle one services it (R129). -/
theorem seqTask_expired (hw : s.seq.InWindow) (hne : s.seq.state ≠ .errorFound) (he : s.seq.timeoutExpired = true)
    (h : seqTask s = .next t) : t.seq.WindowOver s.seq.temperature := by
  by_cases hb : s.block.bs = .idle
  · rw [seqTask_timeout hne hb he] at h
    cases h
    exact hw.serviced
  · rw [seqTask_busy hne hb] at h
    cases h
    exact .inr ⟨rfl, .inl he⟩

theorem seqTask_carriesOn (hw : s.seq.InWindow) (hne : s.seq.state ≠ .errorFound) (he : s.seq.timeoutExpired = false)
    (h : seqTask s = .next t) : t.seq.temperatureReady = true ∨ s.seq.CarriesOn 0 t.seq := by
  by_cases hb : s.block.bs = .idle
  · rw [seqTask_row rfl hb he hne] at h
    exact seqRow_carriesOn (s := { s with rsp := some 0x01 }) hw hne h
  · rw [seqTask_busy hne hb] at h
    cases h
    exact .inr hw.stays

/-- A scheduler tick ends the window, or is counted and leaves the bound unreached. -/
theorem schedulerTick_window (hw : s.seq.InWindow) (hne : s.seq.state ≠ .errorFound) (h : schedulerTick s = .next t) :
    t.seq.WindowOver s.seq.temperature ∨
      s.seq.CarriesOn 1 t.seq ∧ s.seq.waited + 1 < Config.acqTimeoutTicks := by
  obtain ⟨hcount, hbound⟩ := hw.counts
  have hne' : (countTick s.seq).state ≠ .errorFound := by
    obtain ⟨n, e, hq, _⟩ := countTick_eq s.seq
    rwa [hq]
  cases he : (countTick s.seq).timeoutExpired with
  | true =>
    have hover := seqTask_expired (s := s.onSeq countTick) hcount.inWindow hne' he h
    exact .inl (hcount.temperature ▸ hover)
  | false =>
    obtain hready | hgoes := seqTask_carriesOn (s := s.onSeq countTick) hcount.inWindow hne' he h
    · exact .inl (.inl hready)
    · exact .inr ⟨⟨hgoes.inWindow, hgoes.temperature.trans hcount.temperature, hgoes.waited.trans hcount.waited⟩,
        hbound he⟩

/-- Words on the two ports keep what the instructions and the response keep. -/
theorem keeps_takeCommand {I : State → Prop} (hafter : ∀ (s : State) i b l d, I s → I (s.after i b l d))
    (hrespond : ∀ v s, I s → I (respond v s)) (w : CommandWord) : Keeps I (takeCommand w) := by
  intro s t hs ht
  unfold takeCommand at ht
  split at ht
  · exact keeps_issue (fun u b l d hu _ => hafter u _ b l d hu) s t hs ht
  · unfold reservedCommand at ht
    split at ht
    · cases ht
    · cases ht
      exact hrespond _ s hs

theorem keeps_takeTimerWord {I : State → Prop} (hafter : ∀ (s : State) i b l d, I s → I (s.after i b l d))
    (w : TimerWord) : Keeps I (takeTimerWord w) := by
  intro s t hs ht
  unfold takeTimerWord at ht
  split at ht
  · obtain ⟨b, l, d, _, rfl⟩ := exec_eq_next ht
    exact hafter s _ b l d hs
  · cases ht
    exact hs
  · cases ht

/-- No move touches the inputs to come. -/
theorem runInput_inbox {e : Input} (h : runInput e s = .next t) : t.inbox = s.inbox := by
  have hkept : Keeps (State.HasFrame s.inbox s.contract) (runInput e) := by
    cases htimer : e.isTimerPort with
    | false => exact (hasFrame_kept _ _).runInput htimer
    | true =>
      cases e with
      | timerPort w => exact keeps_takeTimerWord (fun _ _ _ _ _ hu => hu) w
      | _ => cases htimer
  exact (hkept s t (by exact ⟨rfl, rfl⟩) h).1

/-- Every move but the host's raises the timeout, which ends the window, or leaves the host's variables alone. -/
theorem runInput_window {e : Input} (hapi : ∀ c, e ≠ .api c) (htick : e ≠ .schedulerTick)
    (h : runInput e s = .next t) : t.seq.WindowOver s.seq.temperature ∨ t.seq = s.seq := by
  have hafter : ∀ (u : State) i b l d, u.seq = s.seq → (u.after i b l d).seq = s.seq := fun _ _ _ _ _ hu => hu
  cases e with
  | reset => cases h; exact .inr rfl
  | command w => exact .inr (keeps_takeCommand hafter (fun _ _ hu => hu) w s t rfl h)
  | timerPort w => exact .inr (keeps_takeTimerWord hafter w s t rfl h)
  | tick => cases h; exact .inr rfl
  | expire => exact .inr (keeps_expireStep (fun u b l d hu _ => hafter u _ b l d hu) s t rfl h)
  | schedulerTick => exact absurd rfl htick
  | api c => exact absurd rfl (hapi c)
  | acquisitionTimeout => cases h; exact .inl (.inr ⟨rfl, .inl rfl⟩)

end moves

/-- Within n steps from s the window is over. -/
def State.EndsWithin (old : BitVec 16) (n : Nat) (s : State) : Prop :=
  ∃ j v, j ≤ n ∧ steps j s = .next v ∧ v.seq.WindowOver old

theorem State.EndsWithin.now {old : BitVec 16} {s : State} (h : s.seq.WindowOver old) (n : Nat) :
    s.EndsWithin old n :=
  ⟨0, s, Nat.zero_le n, rfl, h⟩

theorem State.EndsWithin.later {old : BitVec 16} {n : Nat} {s t : State} (hs : step s = .next t)
    (h : t.EndsWithin old n) : s.EndsWithin old (n + 1) := by
  obtain ⟨j, v, hj, hv, hover⟩ := h
  exact ⟨j + 1, v, Nat.succ_le_succ hj, by rw [steps_succ, hs, andThen_next, hv], hover⟩

/-- In a run without interface calls whose ticks reach the bound, the window ends at some point (R129). -/
theorem window_ends (old : BitVec 16) (l : List Input) : ∀ (rest : List Input) (s u : State),
    s.inbox = l ++ rest → (∀ c, .api c ∉ l) → s.seq.InWindow → s.seq.temperature = old →
    0 < l.count .schedulerTick → Config.acqTimeoutTicks ≤ s.seq.waited + l.count .schedulerTick →
    steps l.length s = .next u → s.EndsWithin old l.length := by
  induction l with
  | nil =>
    intro _ _ _ _ _ _ _ hpos
    simp at hpos
  | cons e l ih =>
    intro rest s u hs hapi hw htemp hpos hbound hrun
    by_cases hover : s.seq.WindowOver old
    · exact .now hover _
    have hne : s.seq.state ≠ .errorFound := fun hst => hover (.inr ⟨htemp, .inr hst⟩)
    obtain ⟨hhead, hrest⟩ := forall_and.1 fun c => not_or.1 (List.mem_cons.not.1 (hapi c))
    obtain ⟨v, hv, hvu⟩ := andThen_eq_next.1 hrun
    have hmove := hv
    rw [step_listed hs] at hmove
    have hinbox : v.inbox = l ++ rest := runInput_inbox hmove
    refine .later hv ?_
    by_cases htick : e = .schedulerTick
    · subst htick
      rw [List.count_cons_self] at hbound
      obtain h | ⟨⟨hw', htemp', hwait⟩, hless⟩ := schedulerTick_window (by exact hw) (by exact hne) hmove
      · exact .now (htemp ▸ h) _
      · dsimp only at hwait hless
        exact ih rest v u hinbox hrest hw' (htemp'.trans htemp) (by omega) (by omega) hvu
    · rw [List.count_cons_of_ne htick] at hpos hbound
      obtain h | h := runInput_window (fun c => Ne.symm (hhead c)) htick hmove
      · exact .now (htemp ▸ h) _
      · exact ih rest v u hinbox hrest (h ▸ hw) (h ▸ htemp) hpos (h ▸ hbound) hvu

/-- Settles O53; its last clause is `window_ends`. -/
theorem sequencerInitializeAndTimeout : Obligations.SequencerInitializeAndTimeout := by
  refine ⟨fun s rest hs => ?_, fun s rest hs => step_listed hs, fun s rest hs => ?_, fun s hb ht hne => ?_, ?_⟩
  · refine ⟨seqClear s.seq, ?_, rfl, rfl, rfl, rfl, rfl, rfl, rfl, rfl⟩
    rw [step_listed hs, runInput, seqApi, issueThen, issue_noninitiating rfl, exec_init]
    rfl
  · rw [step_listed hs, ← countTick_eq_ite]
    rfl
  · rw [seqTask_timeout hne hb ht, serviceTimeout_eq_ite]
  · intro l rest s u hs hapi hcfg hacq hchain hpos hbound hrun
    exact window_ends s.seq.temperature l rest s u hs hapi ⟨hcfg, hacq, hchain⟩ rfl hpos hbound hrun

end Sys2Proof.Machine
end

section
/-! The completion handler and the absence of stops (spec/60_exceptions.md): O8, O14, O24 and O28. -/

namespace Sys2Proof.Machine

/-! ## A step that handles the pending event -/

/-- EXPIRE with an event pending is the arm that `BS` selects (60_exceptions.md R142, R143). -/
theorem expireStep_pending {s : State} (h : s.block.pend = true) : expireStep s = exec (handlerArm s.block.bs) s :=
  if_pos h

/-- EXPIRE with no event pending has no effect (log 5). -/
theorem expireStep_not_pending {s : State} (h : s.block.pend ≠ true) : expireStep s = .next s :=
  if_neg h

/-- Settles O8: the code of `BS` decodes to `handlerArm`, which the block's own move and a listed EXPIRE both run. -/
theorem stepRunsHandlerArmOfBusState : Obligations.StepRunsHandlerArmOfBusState := by
  intro s i hd
  obtain rfl : handlerArm s.block.bs = i := Except.ok.inj ((decode_code s.block.bs).symm.trans hd)
  refine ⟨fun hp hs => ?_, fun rest hs => ?_⟩
  · rw [step_expires hs hp, quiet]
  · rw [step_listed hs, runInput]
    split
    next hp => exact expireStep_pending hp
    next hp => exact expireStep_not_pending hp

/-- Settles O24: code 0 is the code of `Idle`; the arm is the handler's entry alone. -/
theorem expIdleResult : Obligations.ExpIdleResult :=
  ⟨decode_code .idle, fun _ => rfl⟩

/-- Settles O28: on a driven line the answer is 0, and the listed levels and the free ones stay as they are. -/
theorem sampleWhileDrivingReadsLow : Obligations.SampleWhileDrivingReadsLow := by
  intro s hdriven
  have hlow : s.answers s.block.owdrv 0 s.line s.draws := by
    rw [hdriven]
    exact ⟨rfl, rfl, rfl⟩
  exact exec_eq_after (i := .expPs) (by decide) hlow

/-! ## No move of an agent stops the machine (60_exceptions.md R140)

ARM 0 is the one instruction that answers no next state, and only the timer port carries it. -/

theorem IsCommand.ne_arm_zero {i : Instr} (h : IsCommand i) : i ≠ .arm 0 := by
  rintro rfl
  obtain ⟨w, hw⟩ := h
  cases hw

theorem handlerArm_ne_arm_zero (b : BusState) : handlerArm b ≠ .arm 0 := by
  cases b <;> nofun

theorem expireStep_answers (s : State) : ∃ t, expireStep s = .next t := by
  by_cases hp : s.block.pend = true
  · rw [expireStep_pending hp]
    exact exec_answers (handlerArm_ne_arm_zero _) s
  · exact ⟨s, expireStep_not_pending hp⟩

/-- A word on the command port, reserved ones included, in a run that refuses nothing. -/
theorem takeCommand_answers {s : State} (hc : s.contract = false) (w : CommandWord) :
    ∃ t, takeCommand w s = .next t := by
  cases hd : decode (.command w) with
  | ok i =>
    rw [takeCommand_ok hd, issue_literal hc]
    exact exec_answers (isCommand_of_decode hd).ne_arm_zero s
  | error e =>
    rw [takeCommand_error hd, reservedCommand, hc]
    exact ⟨respond 0x00 s, rfl⟩

/-- Every move but a bench word on the timer port, in a run that refuses nothing. -/
theorem runInput_answers {e : Input} {s : State} (he : e.isTimerPort = false) (hc : s.contract = false) :
    ∃ t, runInput e s = .next t := by
  cases e with
  | reset => exact ⟨_, rfl⟩
  | command w => exact takeCommand_answers hc w
  | timerPort w => cases he
  | tick => exact ⟨_, rfl⟩
  | expire => exact expireStep_answers s
  | schedulerTick => exact seqTask_answers _
  | api c => exact seqApi_answers c s
  | acquisitionTimeout => exact ⟨_, rfl⟩

/-- Settles O14: the next move is an agent's, and opening the step leaves the run's treatment of breaches. -/
theorem noMoveOfAnAgentStops : Obligations.NoMoveOfAnAgentStops :=
  fun _ hs hc => runInput_answers (nextInput_isTimerPort hs) hc

end Sys2Proof.Machine
end

section
/-! Reset, the idle duty, and the block left alone (spec/70_reset_and_hazards.md): O11, O13, O49 and O50. -/

namespace Sys2Proof.Machine

/-! ## After reset (R160) -/

/-- A command that initiates nothing leaves the reset values as they are. -/
theorem Block.reset_after {i : Instr} (hi : IsCommand i) (hn : initiates i = false) (b : Bit) :
    Block.reset.after i b = Block.reset := by
  cases i with
  | init | getPresence | isIdle | getLastByte => rfl
  | detectPresence | writeBit | readBit | writeByte | startReadByte => cases hn
  | arm | stop | expIdle | expPdl | expPs | expPr | expW0r | expW1r | expRr => obtain ⟨w, hw⟩ := hi; cases hw

/-- A word that arms nothing is one of a command that initiates nothing; a reserved opcode is left out. -/
theorem armsNothing_command {w : CommandWord} (h : (Input.command w).armsNothing = true) :
    ∃ i, decode (.command w) = .ok i ∧ initiates i = false := by
  unfold Input.armsNothing at h
  dsimp only at h
  split at h
  next i hd => exact ⟨i, hd, by simpa using h⟩
  next => cases h

/-- A move that arms nothing answers, and leaves the reset values as they are. -/
theorem runInput_atReset {e : Input} {s : State} (he : e.armsNothing = true) (hs : s.block = Block.reset) :
    ∃ t, runInput e s = .next t ∧ t.block = Block.reset := by
  cases e with
  | reset => exact ⟨_, rfl, rfl⟩
  | command w =>
    obtain ⟨i, hd, hn⟩ := armsNothing_command he
    have hi : IsCommand i := isCommand_of_decode hd
    obtain ⟨t, ht⟩ := exec_answers hi.ne_arm_zero s
    obtain ⟨b, hb⟩ := exec_block ht
    refine ⟨t, ?_, by rw [hb, hs, Block.reset_after hi hn]⟩
    rw [runInput, takeCommand_ok hd, issue_noninitiating hn, ht]
  | timerPort w => cases he
  | tick => exact ⟨_, rfl, by rw [tick_block, hs]; rfl⟩
  | expire => exact ⟨s, expireStep_not_pending (by rw [hs]; decide), hs⟩
  | schedulerTick => cases he
  | api c =>
    cases c with
    | seqInit =>
      refine ⟨_, by rw [runInput, seqApi, issueThen, issue_noninitiating rfl, exec_init, andThen_next], ?_⟩
      rw [onSeq_block, hs]
      rfl
    | configure | startAcquisition | isTemperatureReady | getTemperature => exact ⟨_, rfl, hs⟩
  | acquisitionTimeout => exact ⟨_, rfl, hs⟩

/-- The registers hold their reset values, and no move is listed that arms the timer. -/
def State.RestsAtReset (s : State) : Prop := s.block = Block.reset ∧ s.inbox.all Input.armsNothing = true

/-- With no such move listed the next move arms nothing either: the block's own moves never do. -/
theorem nextInput_armsNothing {s : State} (h : s.inbox.all Input.armsNothing = true) :
    (nextInput s).armsNothing = true := by
  unfold nextInput
  cases hs : s.inbox with
  | nil => cases s.block.pend <;> rfl
  | cons e rest =>
    rw [hs, List.all_cons, Bool.and_eq_true] at h
    exact h.1

theorem State.RestsAtReset.step {s : State} (h : s.RestsAtReset) : ∃ t, step s = .next t ∧ t.RestsAtReset := by
  obtain ⟨hk, hin⟩ := h
  obtain ⟨t, ht, htk⟩ := runInput_atReset (s := openStep s) (nextInput_armsNothing hin) hk
  have htail : t.inbox = s.inbox.tail := runInput_inbox ht
  refine ⟨t, ht, htk, ?_⟩
  rw [htail, List.all_eq_true]
  exact fun e he => List.all_eq_true.1 hin e (List.mem_of_mem_tail he)

theorem State.RestsAtReset.steps {s : State} (h : s.RestsAtReset) (k : Nat) :
    ∃ u, steps k s = .next u ∧ u.RestsAtReset := by
  induction k generalizing s with
  | zero => exact ⟨s, rfl, h⟩
  | succ k ih =>
    obtain ⟨t, ht, hrest⟩ := h.step
    obtain ⟨u, hu, hend⟩ := ih hrest
    exact ⟨u, by rw [steps_succ, ht, andThen_next, hu], hend⟩

/-- Settles O11: the rst step leaves `RestsAtReset`, which every later step keeps. -/
theorem resetSetsTheTenRegisters : Obligations.ResetSetsTheTenRegisters := by
  refine ⟨by decide, fun s rest hs => step_listed hs, fun s rest hs harms k => ?_⟩
  obtain ⟨u, hu, hk, _⟩ := State.RestsAtReset.steps
    (s := { s with block := Block.reset, inbox := rest, rsp := none, ret := none }) ⟨rfl, harms⟩ k
  exact ⟨u, by rw [steps_succ, step_listed hs]; exact hu, hk⟩

/-! ## The idle duty (R163) -/

theorem initiates_iff (i : Instr) : initiates i = true ↔
    i = .detectPresence ∨ (∃ b, i = .writeBit b) ∨ i = .readBit ∨ (∃ v, i = .writeByte v) ∨ i = .startReadByte := by
  cases i <;> simp [initiates]

/-- A run that refuses breaches refuses an initiating command outside `Idle` (U2). -/
theorem issue_breach {i : Instr} {s : State} (hc : s.contract = true) (hi : initiates i = true)
    (hb : s.block.bs ≠ .idle) : issue i s = .refused .initiatedWhileBusy := by
  obtain ⟨hrefused, _⟩ | ⟨_, hduty⟩ := issue_cases i s
  · exact hrefused
  · exact absurd (breaksIdleDuty_eq_false (hduty hc) hi) hb

/-- Settles O13: the taken word is issued in the registers and the contract of the state before the step. -/
theorem initiatingOutsideIdleIsABreach : Obligations.InitiatingOutsideIdleIsABreach := by
  refine ⟨initiates_iff, fun s w rest i hs hd hc hi hb => ?_⟩
  rw [step_listed hs, runInput, takeCommand_ok hd]
  exact issue_breach hc hi hb

/-! ## Quiescence (R173) -/

theorem Block.quiescent_iff (k : Block) : k.quiescent = true ↔ k.run = false ∧ k.pend = false := by
  simp [Block.quiescent]

/-- Outside `Idle` the timer runs or its event is pending, so the block is quiescent in `Idle` alone. -/
theorem Block.AnyHostInv.quiescent_iff_idle {k : Block} (h : k.AnyHostInv) : k.quiescent = true ↔ k.bs = .idle := by
  obtain ⟨hidle, hbusy, _⟩ := h
  rw [Block.quiescent_iff]
  refine ⟨fun ⟨hr, hp⟩ => by_contra fun hb => ?_, fun hb => ?_⟩
  · have := hbusy hb
    simp [hr, hp] at this
  · obtain ⟨hr, hp, _⟩ := hidle hb
    exact ⟨hr, hp⟩

/-- With nothing listed, a step of a quiescent block is a tick of its halted timer: only the clock moves. -/
theorem step_quiescent {s : State} (hs : s.inbox = []) (hq : s.block.quiescent = true) :
    step s = .next { quiet s with now := s.now + 1 } := by
  obtain ⟨hr, hp⟩ := s.block.quiescent_iff.1 hq
  have ht : (quiet s).block.tick = s.block := Block.tick_halted hr
  rw [step_ticks hs hp, tick, ht]
  rfl

theorem steps_quiescent (k : Nat) {s : State} (hs : s.inbox = []) (hq : s.block.quiescent = true) :
    ∃ u, steps k s = .next u ∧ u.block = s.block ∧ u.trace = s.trace ∧ u.line = s.line := by
  induction k generalizing s with
  | zero => exact ⟨s, rfl, rfl, rfl, rfl⟩
  | succ k ih =>
    rw [steps_succ, step_quiescent hs hq, andThen_next]
    exact ih (s := { quiet s with now := s.now + 1 }) hs hq

/-- Settles O49; an event pending in `Idle` would contradict the invariant (R144). -/
theorem quiescentExactlyInIdleAndForGood : Obligations.QuiescentExactlyInIdleAndForGood := by
  refine ⟨fun k h => ⟨h.quiescent_iff_idle, fun hp => ?_⟩, fun s k hs hq => steps_quiescent k hs hq⟩
  obtain ⟨hbusy, _, _⟩ := h.at_event hp
  exact hbusy

/-! ## Every operation ends (R171)

The handler runs that an operation still needs are counted by `Block.handlerRuns`; one timer wait and the handler run
after it lower the count by one, and at 0 the block is in `Idle`. -/

/-- The handler runs until `Idle`: one for each phase of a presence sequence, one for each slot of a bit or byte. -/
def Block.handlerRuns (k : Block) : Nat :=
  match k.bs with
  | .idle => 0
  | .presenceDriveLow => 3
  | .presenceSample => 2
  | .presenceRecovery => 1
  | .write0Recovery => k.rem.toNat + 1
  | .write1Recovery => k.rem.toNat + 1
  | .readRecovery => k.rem.toNat + 1

namespace Block
variable {k : Block}

theorem handlerRuns_eq_zero (k : Block) : k.handlerRuns = 0 ↔ k.bs = .idle := by
  unfold handlerRuns
  cases k.bs <;> simp

theorem handlerRuns_le (k : Block) : k.handlerRuns ≤ if k.bs.noByte then 3 else k.rem.toNat + 1 := by
  unfold handlerRuns
  cases k.bs <;> simp [BusState.noByte]

theorem writeSlot_handlerRuns (c : Bit) (k : Block) : (k.writeSlot c).handlerRuns = k.rem.toNat + 1 := by
  obtain rfl | rfl := BitVec.eq_zero_or_eq_one c
  · rfl
  · rfl

/-- A recovery ends the operation with no bit left, or starts the slot of the next bit with one bit fewer. -/
theorem writeRecovery_handlerRuns (k : Block) : k.writeRecovery.handlerRuns = k.rem.toNat := by
  by_cases hr : k.rem = 0
  · rw [writeRecovery_last hr, hr]
    rfl
  · rw [writeRecovery_more hr, writeSlot_handlerRuns]
    bv_omega

theorem readRecovery_handlerRuns (b : Bit) (k : Block) : (k.readRecovery b).handlerRuns = k.rem.toNat := by
  by_cases hr : k.rem = 0
  · rw [readRecovery_last b hr, hr]
    rfl
  · rw [readRecovery_more b hr]
    show (k.rem - 1).toNat + 1 = k.rem.toNat
    bv_omega

/-- Every handler run outside `Idle` is one of those counted. -/
theorem handlerRuns_after (hb : k.bs ≠ .idle) (b : Bit) :
    (k.after (handlerArm k.bs) b).handlerRuns + 1 = k.handlerRuns := by
  unfold handlerRuns
  cases hbs : k.bs with
  | idle => exact absurd hbs hb
  | presenceDriveLow => rfl
  | presenceSample => rfl
  | presenceRecovery => rfl
  | write0Recovery => exact congrArg (· + 1) k.writeRecovery_handlerRuns
  | write1Recovery => exact congrArg (· + 1) k.writeRecovery_handlerRuns
  | readRecovery => exact congrArg (· + 1) (k.readRecovery_handlerRuns b)

/-- A handler run shows as one `EXP` in the trace (60_exceptions.md R142); no slot traces another. -/
theorem events_handlerArm_count_exp (bs : BusState) (b : Bit) (k : Block) :
    (k.events (handlerArm bs) b).count .exp = 1 := by
  have hwrite : (TraceEvent.exp ::
      if k.rem = 0 then [] else writeSlotTrace (nextBit (shiftRight k.val))).count .exp = 1 := by
    split <;> rfl
  cases bs with
  | idle => rfl
  | presenceDriveLow => rfl
  | presenceSample => rfl
  | presenceRecovery => rfl
  | write0Recovery => exact hwrite
  | write1Recovery => exact hwrite
  | readRecovery =>
    show (TraceEvent.exp :: if k.rem = 0 then [] else readSlotTrace b).count .exp = 1
    split <;> rfl

/-- The event of a running timer keeps the invariant. -/
theorem AnyHostInv.fired (h : k.AnyHostInv) (hb : k.bs ≠ .idle) :
    { k with cnt := k.cmp, run := false, pend := true }.AnyHostInv := by
  obtain ⟨_, _, hline, _, hcmp⟩ := h
  exact ⟨fun hidle => absurd hidle hb, fun _ => rfl, hline, nofun, hcmp⟩

end Block

section leftAlone
variable {s : State}

/-- Outside `Idle` the event of the phase under way is pending, or its timer gets there (R23 (b), (d)). -/
theorem steps_to_event (h : s.block.AnyHostInv) (hs : s.inbox = []) (hb : s.block.bs ≠ .idle) :
    ∃ k u, steps k s = .next u ∧ u.inbox = [] ∧ u.block.AnyHostInv ∧ u.block.pend = true ∧
      u.block.handlerRuns = s.block.handlerRuns ∧ u.trace = s.trace := by
  cases hp : s.block.pend with
  | true => exact ⟨0, s, rfl, hs, h, hp, rfl, rfl⟩
  | false =>
    have hfired := h.fired hb
    obtain ⟨_, hbusy, _, hcnt, _⟩ := h
    have hr : s.block.run = true := by rw [hbusy hb, hp]; rfl
    obtain ⟨m, hm⟩ := Nat.exists_eq_add_of_lt (hcnt hr)
    exact ⟨m + 1, _, steps_countdown m s hs hp hr hm.symm, hs, hfired, rfl, rfl, rfl⟩

/-- The phase under way ends in its handler run. -/
theorem steps_handlerRun (h : s.block.AnyHostInv) (hs : s.inbox = []) (hb : s.block.bs ≠ .idle) :
    ∃ k t d, steps k s = .next t ∧ t.inbox = [] ∧ t.block.AnyHostInv ∧
      t.block.handlerRuns + 1 = s.block.handlerRuns ∧ t.trace = s.trace ++ d ∧ d.count .exp = 1 := by
  obtain ⟨k, u, hu, hin, hinv, hp, hruns, htrace⟩ := steps_to_event h hs hb
  obtain ⟨hbusy, _, _⟩ := hinv.at_event hp
  obtain ⟨t, ht⟩ := exec_answers (handlerArm_ne_arm_zero u.block.bs) (quiet u)
  obtain ⟨b, l, e, _, rfl⟩ := exec_eq_next ht
  have hstep : steps 1 u = .next ((quiet u).after (handlerArm u.block.bs) b l e) := by
    rw [steps_succ, andThen_steps_zero, step_expires hin hp, ht]
  refine ⟨k + 1, _, _, steps_then hu hstep, hin, hinv.handler hp b, ?_, ?_,
    Block.events_handlerArm_count_exp u.block.bs b u.block⟩
  · exact (Block.handlerRuns_after hbusy b).trans hruns
  · rw [← htrace]
    rfl

/-- An operation ends after exactly the handler runs that are counted, whatever the line answers. -/
theorem steps_to_idle (n : Nat) (h : s.block.AnyHostInv) (hs : s.inbox = []) (hn : s.block.handlerRuns = n) :
    ∃ k u d, steps k s = .next u ∧ u.block.bs = .idle ∧ u.trace = s.trace ++ d ∧ d.count .exp = n := by
  induction n generalizing s with
  | zero => exact ⟨0, s, [], rfl, s.block.handlerRuns_eq_zero.1 hn, (List.append_nil _).symm, rfl⟩
  | succ n ih =>
    have hb : s.block.bs ≠ .idle := fun hb => by
      rw [s.block.handlerRuns_eq_zero.2 hb] at hn
      cases hn
    obtain ⟨j, t, d, hj, hin, hinv, hruns, htrace, hd⟩ := steps_handlerRun h hs hb
    obtain ⟨k, u, d', hk, hidle, htrace', hd'⟩ := ih hinv hin (by omega)
    refine ⟨j + k, u, d ++ d', steps_then hj hk, hidle, ?_, ?_⟩
    · rw [htrace', htrace, List.append_assoc]
    · rw [List.count_append, hd, hd', Nat.add_comm]

end leftAlone

/-- Settles O50: `steps_to_idle`, and the bounds on its number of handler runs. -/
theorem everyOperationReachesIdle : Obligations.EveryOperationReachesIdle := by
  intro s h hs
  obtain ⟨k, u, d, hk, hidle, htrace, hd⟩ := steps_to_idle _ h hs rfl
  exact ⟨k, u, d, hk, hidle, htrace, hd.trans_le s.block.handlerRuns_le⟩

end Sys2Proof.Machine
end
